-- ==== Sys2Proof/Word.lean ====
section
/-! DEFINITION. The machine's word types (00/R8, 10/R20, 10/R27, 30/R101). -/

namespace Sys2Proof

/-- One byte of memory (20/R60). -/
abbrev Byte := BitVec 8

/-- A general register, `pc`, `hi`, `lo` or an address: XLEN = 64 (00/R5). -/
abbrev Word := BitVec 64

/-- A vector register: VLEN = 256 (00/R5, 10/R27). -/
abbrev VWord := BitVec 256

/-- An instruction word: ILEN = 32 (00/R5, 30/R101). -/
abbrev InstrWord := BitVec 32

/-- The number of a general or a vector register, a 5-bit field (10/R20, 10/R28). -/
abbrev RegNum := BitVec 5

end Sys2Proof
end

