-- ==== Sys2Proof/Config.lean ====
section
/-! DEFINITION. What an implementation fixes (00/R5) and what nobody fixes: the record of the implementation's
parameters with the types of its tables, the words the CPU and its host exchange (46/R363), and the opaque free values.
The values the spec gives the parameters stand in `Sys2Proof.Machine.config`. -/

namespace Sys2Proof

/-! ### The encoding (30/R101, R111 to R115) -/

/-- The encoded formats (30/R101). -/
inductive Format where
  | R | I | J | EI
  deriving DecidableEq, Repr

/-- The mnemonics of `ITABLE`, one for each row (30/R112 to R115). -/
inductive Mnemonic where
  -- J format
  | nop | syscall | j | jal
  -- scalar R format, opcode 0x08
  | add | sub | addw | subw | mult | multu | multw | multuw | div | divu | divw | divuw | mfhi | mflo
  | mthi | mtlo | and | or | xor | nor | sll | srl | sra | sllw | srlw | sraw | slt | sltu | jr | jalr
  | lbx | lbux | lhx | lhux | lwx | lwux | ldx | sbx | shx | swx | sdx
  -- vector R format, opcode 0x09
  | vaddi32 | vaddi64 | vaddf32 | vaddf64 | vsubi32 | vsubi64 | vsubf32 | vsubf64 | vmuli32 | vmuli64
  | vmulf32 | vmulf64 | vdivi32 | vdivi64 | vdivf32 | vdivf64 | vand | vor | vxor | vnor | vsll32 | vsll64
  | vsrl32 | vsrl64 | vsra32 | vsra64 | vsllv32 | vsllv64 | vsrlv32 | vsrlv64 | vsrav32 | vsrav64 | vseqi32
  | vseqi64 | vseqf32 | vseqf64 | vslti32 | vslti64 | vsltf32 | vsltf64 | vcvti32f32 | vcvti64f64
  | vcvtf32i32 | vcvtf64i64 | vsumi32 | vsumi64 | vsumf32 | vsumf64 | vmsb32 | vmsb64 | vlsb32 | vlsb64
  | vshuf32 | vshuf64
  -- I format
  | addi | addiu | addwi | addwiu | andi | andiu | ori | oriu | xori | xoriu | slti | sltiu | slli | srli
  | srai | sllwi | srlwi | srawi | lb | lbu | lh | lhu | lw | lwu | ld | sb | sh | sw | sd | vld | vst
  | beq | bne | blt | bge | bltu | bgeu
  -- EI format
  | li0 | li1 | li2 | li3
  deriving DecidableEq, Repr

/-- A row of `ITABLE`: a format, an opcode and a func, which is 0 in a format without the field. -/
structure TableRow where
  format : Format
  opcode : BitVec 7
  func : BitVec 10
  deriving DecidableEq, Repr

/-- Where the lowest bit of each field of an R word lies (30/R101). -/
structure LayoutR where
  rs : Nat
  rt : Nat
  rd : Nat
  func : Nat
  deriving DecidableEq, Repr

/-- The same of an I word. -/
structure LayoutI where
  rs : Nat
  rt : Nat
  imm : Nat
  deriving DecidableEq, Repr

/-- The same of a J word. -/
structure LayoutJ where
  addr : Nat
  deriving DecidableEq, Repr

/-- The same of an EI word. -/
structure LayoutEI where
  rd : Nat
  func : Nat
  imm : Nat
  deriving DecidableEq, Repr

/-- `LAYOUT`: where the lowest bit of each field lies in the word, for each format by itself (30/R101). The opcode has
one place: it is read before the format is known (30/R100 step 3). -/
structure FieldLayout where
  opcode : Nat
  r : LayoutR
  i : LayoutI
  j : LayoutJ
  ei : LayoutEI
  deriving DecidableEq, Repr

/-! ### Arithmetic -/

/-- An IEEE 754 binary format: a sign bit above an exponent field above a fraction field. -/
structure Machine.FloatFormat where
  expBits : Nat
  fracBits : Nat
  deriving DecidableEq, Repr

/-- `FP`: the arithmetic of every format on bit patterns. `none` is a NaN, whose pattern is not specified
(44/R273). -/
structure FloatArith where
  add : Machine.FloatFormat → Nat → Nat → Option Nat
  sub : Machine.FloatFormat → Nat → Nat → Option Nat
  mul : Machine.FloatFormat → Nat → Nat → Option Nat
  div : Machine.FloatFormat → Nat → Nat → Option Nat

/-- What a shift count not below the operand width does (parameter `SHIFT_OVER`; 40/R142, 44/R274). -/
inductive ShiftOver where
  /-- the count is taken modulo the width (the spec's value, D11) -/
  | modulo
  /-- the alternative 44/R274 names: zeros, or all sign bits -/
  | saturate
  deriving DecidableEq, Repr

/-- The three roundings of a vector conversion (45/R321). -/
inductive RoundMode where
  /-- nearest, ties to even -/
  | nearest
  | floor
  | ceil
  deriving DecidableEq, Repr

/-- `SHUF_PACK` for one number of lanes: how wide an index is, and where the lowest bit of the index of each
destination lane lies in the general register (45/R345, R346). -/
structure IndexPacking where
  bits : Nat
  lsb : Nat → Nat

/-! ### Memory and the host -/

/-- The permission flags of a segment (20/R61). -/
structure SegmentFlags where
  r : Bool
  w : Bool
  x : Bool
  deriving DecidableEq, Repr

/-- The services of the syscall dispatcher (46/R362). -/
inductive Service where
  | printInt | printFloat | printDouble | printString
  | readInt | readFloat | readDouble | readString
  | sbrk | exit | printChar | readChar
  | openFile | readFile | writeFile | closeFile | exit2
  deriving DecidableEq, Repr

/-- How a descriptor was opened (46/R377 and section 6). -/
inductive FdAccess where
  | readOnly | writeOnly | readWrite
  deriving DecidableEq, Repr

/-- The events the dispatcher appends to the output trace (46/R363). -/
inductive HostEvent where
  | printInt (v : Int)
  | printFloat (bits : BitVec 32)
  | printDouble (bits : BitVec 64)
  | printString (bytes : List Byte)
  | printChar (code : Word)
  | fileWrite (fd : Word) (bytes : List Byte)
  | fileOpen (path : List Byte) (flags mode result : Word)
  | fileClose (fd : Word)
  deriving DecidableEq, Repr

/-- One answer of the host. Each question reads the parts it asks for: the console reads `value` or
`bytes`, open `ok` and `fileExists`, read `ok` and `bytes`, write `ok` (46/R363). -/
structure HostAnswer where
  /-- an integer, a float's bit pattern in the low bits, or a character code -/
  value : Word
  /-- a byte string typed or read from a file -/
  bytes : List Byte
  /-- the file operation succeeded -/
  ok : Bool
  /-- the file named by the path exists on the host -/
  fileExists : Bool
  deriving DecidableEq, Repr, Inhabited

/-! ### The record of the parameters -/

/-- The implementation parameters of 00/R5 that are decided or OPEN, each a field: another value stands here
without a change of any rule. What the source fixes (widths, numbers of registers) is in the types, `ENTRY` is the
executable's. -/
structure Config where
  /-- `LAYOUT` (30/R101) -/
  layout : FieldLayout
  /-- `ITABLE` (30/R112 to R115) -/
  itable : Mnemonic → TableRow
  /-- `REGNAMES`: the assembler names of the general registers from 0 up (10/R22). No step reads them: a register's
  hardware role has a field of its own below. -/
  regNames : List String
  /-- `TEXT_BASE` (20/R64) -/
  textBase : Word
  /-- `DATA_BASE` (20/R64) -/
  dataBase : Word
  /-- `KTEXT_BASE` (20/R64) -/
  ktextBase : Word
  /-- `KDATA_BASE` (20/R64) -/
  kdataBase : Word
  /-- `STACK_END`, the first address above the stack (20/R64) -/
  stackEnd : Word
  /-- the default of `STACK_SIZE` in bytes, which a loader may set (20/R64, 70/R445) -/
  stackSize : Nat
  /-- `HEAP_GAP` as the host draws it at `State.reset` (20/R66) -/
  heapGap : Nat
  /-- the permissions of the six segments (20/R62) -/
  textFlags : SegmentFlags
  dataFlags : SegmentFlags
  ktextFlags : SegmentFlags
  kdataFlags : SegmentFlags
  stackFlags : SegmentFlags
  heapFlags : SegmentFlags
  /-- `GP_RESET` (70/R442) -/
  gpReset : Word
  /-- `SP_RESET` (70/R442) -/
  spReset : Word
  /-- `FP_RESET` (70/R442) -/
  fpReset : Word
  /-- `MEM_INIT` (20/R75) -/
  memInit : Byte
  /-- `LINK` (00/R5, 43/R253) -/
  link : RegNum
  /-- the register of the service number and of a service's result (46/R361) -/
  serviceReg : RegNum
  /-- the argument registers `a0` to `a5` (46/R361) -/
  argReg : Fin 6 → RegNum
  /-- the global, stack and frame pointer (10/R22) -/
  gpReg : RegNum
  spReg : RegNum
  fpReg : RegNum
  /-- `SHIFT_OVER` -/
  shiftOver : ShiftOver
  /-- `DIV_FAULT`: the quotient and the remainder of a division (signed where the flag is true) by zero or past the
  range, `none` where it raises `ArithFault` (40/R143, 44/R272) -/
  divFault : Bool → (w : Nat) → BitVec w → BitVec w → Option (BitVec w × BitVec w)
  /-- `FP` (44/R273) -/
  fp : FloatArith
  /-- `CVT_MODE`: the rounding a selector names, `none` where it names none (45/R321) -/
  cvtMode : BitVec 2 → Option RoundMode
  /-- `SHUF_PACK`, for 8 and for 4 lanes (45/R345, R346) -/
  shufPack32 : IndexPacking
  shufPack64 : IndexPacking
  /-- `SYSTABLE`: the service of a number, `none` where there is none (46/R362) -/
  service : Word → Option Service
  /-- `OPEN_FLAGS`: the access mode, `none` for the invalid one (46/R377) -/
  openAccess : Word → Option FdAccess
  /-- `OPEN_FLAGS`: the bits for create, truncate and append (46/R377) -/
  openCreate : Word
  openTruncate : Word
  openAppend : Word
  /-- `HOST`: the answer to question number `n`, to a host that has been shown these events (46/R363) -/
  host : Nat → List HostEvent → HostAnswer

/-- DESIGN CHOICE (Log 7, Log 8; safe): the free values, one for each draw. A NaN result takes its
sign and fraction from one (44/R273), an unrepresentable conversion its whole lane (45/R321). -/
opaque Config.freeBits : Nat → BitVec 64

/-- DESIGN CHOICE (Log 5; safe): the free value of the parameter `HOST`, which answers once no answer is lined up in
State (46/R363). -/
opaque Config.freeHost : Nat → List HostEvent → HostAnswer

/-- DESIGN CHOICE (Log 3; safe): the free value of `HEAP_GAP` at `State.reset` (20/R66). -/
opaque Config.freeGap : Nat

end Sys2Proof
end

