-- ==== Sys2Proof/Machine/Float.lean ====
section
/-! DEFINITION. IEEE 754 binary32 and binary64 (44/R273, 45/R320, R321; parameter `FP`).

A finite datum is a sign and a whole number of QUANTA, the format's smallest subnormal: every finite
datum of the format is one. Arithmetic is exact on quanta, as a quotient of natural numbers, and is
rounded once, at the end. -/

namespace Sys2Proof.Machine

def binary32 : FloatFormat := ⟨8, 23⟩
def binary64 : FloatFormat := ⟨11, 52⟩

/-- The magnitude pattern of infinity: exponent all ones, fraction zero. -/
def FloatFormat.infPattern (F : FloatFormat) : Nat := (2 ^ F.expBits - 1) * 2 ^ F.fracBits

/-- The sign bit's value. -/
def FloatFormat.signBit (F : FloatFormat) : Nat := 2 ^ (F.expBits + F.fracBits)

/-- The number 1 is `2 ^ unit` quanta. -/
def FloatFormat.unit (F : FloatFormat) : Nat := 2 ^ (F.expBits - 1) - 1 + F.fracBits - 1

/-- What a pattern stands for. `neg` is the sign; a finite datum is `quanta` quanta. -/
inductive Datum where
  | nan
  | inf (neg : Bool)
  | fin (neg : Bool) (quanta : Nat)
  deriving DecidableEq, Repr

/-- The quanta of a finite magnitude pattern: subnormals and the first binade as they stand, then the
fraction with its hidden bit, doubled at every exponent. -/
def FloatFormat.quanta (F : FloatFormat) (magnitude : Nat) : Nat :=
  if magnitude < 2 ^ (F.fracBits + 1) then magnitude
  else (2 ^ F.fracBits + magnitude % 2 ^ F.fracBits) * 2 ^ (magnitude / 2 ^ F.fracBits - 1)

/-- The datum of a bit pattern. -/
def FloatFormat.datum (F : FloatFormat) (pattern : Nat) : Datum :=
  let neg := pattern / F.signBit % 2 == 1
  let magnitude := pattern % F.signBit
  if magnitude < F.infPattern then .fin neg (F.quanta magnitude)
  else if magnitude = F.infPattern then .inf neg
  else .nan

/-- The pattern of a sign and a magnitude pattern. -/
def FloatFormat.signed (F : FloatFormat) (neg : Bool) (magnitude : Nat) : Nat :=
  (if neg then F.signBit else 0) + magnitude

/-- The finite datum's signed quanta. -/
def signedQuanta (neg : Bool) (q : Nat) : Int := if neg then -(q : Int) else q

/-! ### Rounding -/

/-- A quotient `m` with remainder `rem` over `den` is rounded away from zero (45/R321). -/
def roundsAway (mode : RoundMode) (neg : Bool) (m rem den : Nat) : Bool :=
  match mode with
  | .nearest => decide (den < 2 * rem) || (decide (2 * rem = den) && m % 2 == 1)
  | .floor => neg && rem != 0
  | .ceil => !neg && rem != 0

/-- `num / den` as a whole magnitude under a rounding. -/
def roundQuotient (mode : RoundMode) (neg : Bool) (num den : Nat) : Nat :=
  num / den + if roundsAway mode neg (num / den) (num % den) den then 1 else 0

/-- How many low bits the result's significand drops: its leading bit is bit `fracBits`, or it is
subnormal. -/
def FloatFormat.dropped (F : FloatFormat) (whole : Nat) : Nat :=
  if whole < 2 ^ (F.fracBits + 1) then 0 else whole.log2 - F.fracBits

/-- The magnitude pattern nearest `num / den` quanta under a rounding. The patterns of a format are in
the order of their magnitudes, so a significand that rounds up past its last bit carries into the exponent
and past the last exponent into infinity. A directed rounding past the largest finite magnitude, which
no integer of a lane's width reaches, is infinity too (Log 19). -/
def FloatFormat.roundMagnitude (F : FloatFormat) (mode : RoundMode) (neg : Bool) (num den : Nat) : Nat :=
  let k := F.dropped (num / den)
  min (k * 2 ^ F.fracBits + roundQuotient mode neg num (den * 2 ^ k)) F.infPattern

/-! ### Arithmetic (44/R273): the result's pattern, `none` for a NaN -/

/-- The sum of two data. An exact zero sum is `+0` but for the sum of two `-0`. -/
def FloatFormat.addData (F : FloatFormat) (a b : Datum) : Option Nat :=
  match a, b with
  | .nan, _ => none
  | _, .nan => none
  | .inf n, .inf m => if n = m then some (F.signed n F.infPattern) else none
  | .inf n, .fin _ _ => some (F.signed n F.infPattern)
  | .fin _ _, .inf m => some (F.signed m F.infPattern)
  | .fin n p, .fin m q =>
    let sum := signedQuanta n p + signedQuanta m q
    if sum = 0 then some (F.signed (n && m) 0)
    else some (F.signed (decide (sum < 0)) (F.roundMagnitude .nearest (decide (sum < 0)) sum.natAbs 1))

/-- The datum with the opposite sign. -/
def Datum.negate : Datum → Datum
  | .nan => .nan
  | .inf n => .inf (!n)
  | .fin n q => .fin (!n) q

/-- The product of two data. -/
def FloatFormat.mulData (F : FloatFormat) (a b : Datum) : Option Nat :=
  match a, b with
  | .nan, _ => none
  | _, .nan => none
  | .inf n, .inf m => some (F.signed (n != m) F.infPattern)
  | .inf n, .fin m q => if q = 0 then none else some (F.signed (n != m) F.infPattern)
  | .fin n p, .inf m => if p = 0 then none else some (F.signed (n != m) F.infPattern)
  | .fin n p, .fin m q =>
    some (F.signed (n != m) (F.roundMagnitude .nearest (n != m) (p * q) (2 ^ F.unit)))

/-- The quotient of two data. -/
def FloatFormat.divData (F : FloatFormat) (a b : Datum) : Option Nat :=
  match a, b with
  | .nan, _ => none
  | _, .nan => none
  | .inf _, .inf _ => none
  | .inf n, .fin m _ => some (F.signed (n != m) F.infPattern)
  | .fin n _, .inf m => some (F.signed (n != m) 0)
  | .fin n p, .fin m q =>
    if q = 0 then
      if p = 0 then none else some (F.signed (n != m) F.infPattern)
    else some (F.signed (n != m) (F.roundMagnitude .nearest (n != m) (p * 2 ^ F.unit) q))

def FloatFormat.add (F : FloatFormat) (a b : Nat) : Option Nat := F.addData (F.datum a) (F.datum b)
def FloatFormat.sub (F : FloatFormat) (a b : Nat) : Option Nat := F.addData (F.datum a) (F.datum b).negate
def FloatFormat.mul (F : FloatFormat) (a b : Nat) : Option Nat := F.mulData (F.datum a) (F.datum b)
def FloatFormat.div (F : FloatFormat) (a b : Nat) : Option Nat := F.divData (F.datum a) (F.datum b)

/-- The spec's value of `FP`: IEEE 754, round to nearest, ties to even (D19). -/
def ieeeArith : FloatArith where
  add := FloatFormat.add
  sub := FloatFormat.sub
  mul := FloatFormat.mul
  div := FloatFormat.div

/-- A NaN whose sign and fraction are free (44/R273, U6; Log 7; safe): every NaN pattern of the format comes
from some draw, and every draw gives a NaN. -/
def FloatFormat.someNan (F : FloatFormat) (draw : Nat) : Nat :=
  let fraction := draw % 2 ^ F.fracBits
  F.signed (draw / F.signBit % 2 == 1) (F.infPattern + if fraction = 0 then 1 else fraction)

/-- The pattern an operation writes. -/
def FloatFormat.finish (F : FloatFormat) (draw : Nat) (result : Option Nat) : Nat :=
  match result with
  | some pattern => pattern
  | none => F.someNan draw

/-- One lane of a float operation. -/
def floatLane {w : Nat} (F : FloatFormat) (op : FloatFormat → Nat → Nat → Option Nat) (draw : BitVec 64)
    (a b : BitVec w) : BitVec w :=
  BitVec.ofNat w (F.finish draw.toNat (op F a.toNat b.toNat))

/-! ### Compare (45/R320): IEEE order, a NaN is in no relation -/

def Datum.equal : Datum → Datum → Bool
  | .nan, _ => false
  | _, .nan => false
  | .inf n, .inf m => n == m
  | .inf _, .fin _ _ => false
  | .fin _ _, .inf _ => false
  | .fin n p, .fin m q => decide (signedQuanta n p = signedQuanta m q)

def Datum.less : Datum → Datum → Bool
  | .nan, _ => false
  | _, .nan => false
  | .inf n, .inf m => n && !m
  | .inf n, .fin _ _ => n
  | .fin _ _, .inf m => !m
  | .fin n p, .fin m q => decide (signedQuanta n p < signedQuanta m q)

def floatEqual {w : Nat} (F : FloatFormat) (a b : BitVec w) : Bool :=
  (F.datum a.toNat).equal (F.datum b.toNat)

def floatLess {w : Nat} (F : FloatFormat) (a b : BitVec w) : Bool :=
  (F.datum a.toNat).less (F.datum b.toNat)

/-! ### Convert (45/R321) -/

/-- The float of an integer. 0 gives `+0`. -/
def FloatFormat.ofInt (F : FloatFormat) (mode : RoundMode) (i : Int) : Nat :=
  F.signed (decide (i < 0)) (F.roundMagnitude mode (decide (i < 0)) (i.natAbs * 2 ^ F.unit) 1)

/-- The integer a datum rounds to, `none` for a NaN and an infinity. -/
def FloatFormat.toInt (F : FloatFormat) (mode : RoundMode) (d : Datum) : Option Int :=
  match d with
  | .nan => none
  | .inf _ => none
  | .fin n q => some (signedQuanta n (roundQuotient mode n q (2 ^ F.unit)))

/-- Integer lane to float lane. -/
def intToFloat {w : Nat} (F : FloatFormat) (mode : RoundMode) (a : BitVec w) : BitVec w :=
  BitVec.ofNat w (F.ofInt mode a.toInt)

/-- The integer is one of `w` signed bits. -/
def fitsSigned (w : Nat) (i : Int) : Bool := decide (-(2 : Int) ^ (w - 1) ≤ i) && decide (i < (2 : Int) ^ (w - 1))

/-- Float lane to integer lane; what does not fit is a free value (U8; Log 8; safe). -/
def floatToInt {w : Nat} (F : FloatFormat) (mode : RoundMode) (draw : BitVec 64) (a : BitVec w) : BitVec w :=
  match F.toInt mode (F.datum a.toNat) with
  | some i => if fitsSigned w i then BitVec.ofInt w i else draw.setWidth w
  | none => draw.setWidth w

end Sys2Proof.Machine
end

