-- ==== Sys2Proof/Machine/Reference.lean ====
section
/-! DEFINITION. The values of the implementation parameters (00/R5): those the spec decides, and the
reference configuration `CFG_REF` for those it leaves OPEN (20/R64, 70/R442). -/

namespace Sys2Proof.Machine

/-- `ITABLE` (30/R112 to R115, D2): the rows of spec/opcode_table.json. -/
def instructionTable : Mnemonic → TableRow
  | .nop => ⟨.J, 0x00, 0x000⟩
  | .syscall => ⟨.J, 0x01, 0x000⟩
  | .j => ⟨.J, 0x02, 0x000⟩
  | .jal => ⟨.J, 0x03, 0x000⟩
  | .add => ⟨.R, 0x08, 0x000⟩
  | .sub => ⟨.R, 0x08, 0x001⟩
  | .addw => ⟨.R, 0x08, 0x002⟩
  | .subw => ⟨.R, 0x08, 0x003⟩
  | .mult => ⟨.R, 0x08, 0x004⟩
  | .multu => ⟨.R, 0x08, 0x005⟩
  | .multw => ⟨.R, 0x08, 0x006⟩
  | .multuw => ⟨.R, 0x08, 0x007⟩
  | .div => ⟨.R, 0x08, 0x008⟩
  | .divu => ⟨.R, 0x08, 0x009⟩
  | .divw => ⟨.R, 0x08, 0x00A⟩
  | .divuw => ⟨.R, 0x08, 0x00B⟩
  | .mfhi => ⟨.R, 0x08, 0x00C⟩
  | .mflo => ⟨.R, 0x08, 0x00D⟩
  | .mthi => ⟨.R, 0x08, 0x00E⟩
  | .mtlo => ⟨.R, 0x08, 0x00F⟩
  | .and => ⟨.R, 0x08, 0x010⟩
  | .or => ⟨.R, 0x08, 0x011⟩
  | .xor => ⟨.R, 0x08, 0x012⟩
  | .nor => ⟨.R, 0x08, 0x013⟩
  | .sll => ⟨.R, 0x08, 0x014⟩
  | .srl => ⟨.R, 0x08, 0x015⟩
  | .sra => ⟨.R, 0x08, 0x016⟩
  | .sllw => ⟨.R, 0x08, 0x017⟩
  | .srlw => ⟨.R, 0x08, 0x018⟩
  | .sraw => ⟨.R, 0x08, 0x019⟩
  | .slt => ⟨.R, 0x08, 0x01A⟩
  | .sltu => ⟨.R, 0x08, 0x01B⟩
  | .jr => ⟨.R, 0x08, 0x020⟩
  | .jalr => ⟨.R, 0x08, 0x021⟩
  | .lbx => ⟨.R, 0x08, 0x030⟩
  | .lbux => ⟨.R, 0x08, 0x031⟩
  | .lhx => ⟨.R, 0x08, 0x032⟩
  | .lhux => ⟨.R, 0x08, 0x033⟩
  | .lwx => ⟨.R, 0x08, 0x034⟩
  | .lwux => ⟨.R, 0x08, 0x035⟩
  | .ldx => ⟨.R, 0x08, 0x036⟩
  | .sbx => ⟨.R, 0x08, 0x038⟩
  | .shx => ⟨.R, 0x08, 0x039⟩
  | .swx => ⟨.R, 0x08, 0x03A⟩
  | .sdx => ⟨.R, 0x08, 0x03B⟩
  | .vaddi32 => ⟨.R, 0x09, 0x000⟩
  | .vaddi64 => ⟨.R, 0x09, 0x001⟩
  | .vaddf32 => ⟨.R, 0x09, 0x002⟩
  | .vaddf64 => ⟨.R, 0x09, 0x003⟩
  | .vsubi32 => ⟨.R, 0x09, 0x004⟩
  | .vsubi64 => ⟨.R, 0x09, 0x005⟩
  | .vsubf32 => ⟨.R, 0x09, 0x006⟩
  | .vsubf64 => ⟨.R, 0x09, 0x007⟩
  | .vmuli32 => ⟨.R, 0x09, 0x008⟩
  | .vmuli64 => ⟨.R, 0x09, 0x009⟩
  | .vmulf32 => ⟨.R, 0x09, 0x00A⟩
  | .vmulf64 => ⟨.R, 0x09, 0x00B⟩
  | .vdivi32 => ⟨.R, 0x09, 0x00C⟩
  | .vdivi64 => ⟨.R, 0x09, 0x00D⟩
  | .vdivf32 => ⟨.R, 0x09, 0x00E⟩
  | .vdivf64 => ⟨.R, 0x09, 0x00F⟩
  | .vand => ⟨.R, 0x09, 0x010⟩
  | .vor => ⟨.R, 0x09, 0x011⟩
  | .vxor => ⟨.R, 0x09, 0x012⟩
  | .vnor => ⟨.R, 0x09, 0x013⟩
  | .vsll32 => ⟨.R, 0x09, 0x020⟩
  | .vsll64 => ⟨.R, 0x09, 0x021⟩
  | .vsrl32 => ⟨.R, 0x09, 0x022⟩
  | .vsrl64 => ⟨.R, 0x09, 0x023⟩
  | .vsra32 => ⟨.R, 0x09, 0x024⟩
  | .vsra64 => ⟨.R, 0x09, 0x025⟩
  | .vsllv32 => ⟨.R, 0x09, 0x028⟩
  | .vsllv64 => ⟨.R, 0x09, 0x029⟩
  | .vsrlv32 => ⟨.R, 0x09, 0x02A⟩
  | .vsrlv64 => ⟨.R, 0x09, 0x02B⟩
  | .vsrav32 => ⟨.R, 0x09, 0x02C⟩
  | .vsrav64 => ⟨.R, 0x09, 0x02D⟩
  | .vseqi32 => ⟨.R, 0x09, 0x030⟩
  | .vseqi64 => ⟨.R, 0x09, 0x031⟩
  | .vseqf32 => ⟨.R, 0x09, 0x032⟩
  | .vseqf64 => ⟨.R, 0x09, 0x033⟩
  | .vslti32 => ⟨.R, 0x09, 0x034⟩
  | .vslti64 => ⟨.R, 0x09, 0x035⟩
  | .vsltf32 => ⟨.R, 0x09, 0x036⟩
  | .vsltf64 => ⟨.R, 0x09, 0x037⟩
  | .vcvti32f32 => ⟨.R, 0x09, 0x040⟩
  | .vcvti64f64 => ⟨.R, 0x09, 0x041⟩
  | .vcvtf32i32 => ⟨.R, 0x09, 0x042⟩
  | .vcvtf64i64 => ⟨.R, 0x09, 0x043⟩
  | .vsumi32 => ⟨.R, 0x09, 0x048⟩
  | .vsumi64 => ⟨.R, 0x09, 0x049⟩
  | .vsumf32 => ⟨.R, 0x09, 0x04A⟩
  | .vsumf64 => ⟨.R, 0x09, 0x04B⟩
  | .vmsb32 => ⟨.R, 0x09, 0x050⟩
  | .vmsb64 => ⟨.R, 0x09, 0x051⟩
  | .vlsb32 => ⟨.R, 0x09, 0x052⟩
  | .vlsb64 => ⟨.R, 0x09, 0x053⟩
  | .vshuf32 => ⟨.R, 0x09, 0x058⟩
  | .vshuf64 => ⟨.R, 0x09, 0x059⟩
  | .addi => ⟨.I, 0x10, 0x000⟩
  | .addiu => ⟨.I, 0x11, 0x000⟩
  | .addwi => ⟨.I, 0x12, 0x000⟩
  | .addwiu => ⟨.I, 0x13, 0x000⟩
  | .andi => ⟨.I, 0x14, 0x000⟩
  | .andiu => ⟨.I, 0x15, 0x000⟩
  | .ori => ⟨.I, 0x16, 0x000⟩
  | .oriu => ⟨.I, 0x17, 0x000⟩
  | .xori => ⟨.I, 0x18, 0x000⟩
  | .xoriu => ⟨.I, 0x19, 0x000⟩
  | .slti => ⟨.I, 0x1A, 0x000⟩
  | .sltiu => ⟨.I, 0x1B, 0x000⟩
  | .slli => ⟨.I, 0x1C, 0x000⟩
  | .srli => ⟨.I, 0x1D, 0x000⟩
  | .srai => ⟨.I, 0x1E, 0x000⟩
  | .sllwi => ⟨.I, 0x1F, 0x000⟩
  | .srlwi => ⟨.I, 0x20, 0x000⟩
  | .srawi => ⟨.I, 0x21, 0x000⟩
  | .lb => ⟨.I, 0x28, 0x000⟩
  | .lbu => ⟨.I, 0x29, 0x000⟩
  | .lh => ⟨.I, 0x2A, 0x000⟩
  | .lhu => ⟨.I, 0x2B, 0x000⟩
  | .lw => ⟨.I, 0x2C, 0x000⟩
  | .lwu => ⟨.I, 0x2D, 0x000⟩
  | .ld => ⟨.I, 0x2E, 0x000⟩
  | .sb => ⟨.I, 0x30, 0x000⟩
  | .sh => ⟨.I, 0x31, 0x000⟩
  | .sw => ⟨.I, 0x32, 0x000⟩
  | .sd => ⟨.I, 0x33, 0x000⟩
  | .vld => ⟨.I, 0x34, 0x000⟩
  | .vst => ⟨.I, 0x35, 0x000⟩
  | .beq => ⟨.I, 0x38, 0x000⟩
  | .bne => ⟨.I, 0x39, 0x000⟩
  | .blt => ⟨.I, 0x3A, 0x000⟩
  | .bge => ⟨.I, 0x3B, 0x000⟩
  | .bltu => ⟨.I, 0x3C, 0x000⟩
  | .bgeu => ⟨.I, 0x3D, 0x000⟩
  | .li0 => ⟨.EI, 0x40, 0x000⟩
  | .li1 => ⟨.EI, 0x40, 0x001⟩
  | .li2 => ⟨.EI, 0x40, 0x002⟩
  | .li3 => ⟨.EI, 0x40, 0x003⟩

/-- `LAYOUT` (30/R101, D1). -/
def fieldLayout : FieldLayout where
  opcode := 25
  r := { rs := 20, rt := 15, rd := 10, func := 0 }
  i := { rs := 20, rt := 15, imm := 0 }
  j := { addr := 0 }
  ei := { rd := 20, func := 16, imm := 0 }

/-- `REGNAMES` (10/R22, D3). -/
def registerNames : List String :=
  ["%zero", "%at", "%v0", "%v1", "%a0", "%a1", "%a2", "%a3", "%a4", "%a5", "%t0", "%t1", "%t2", "%t3", "%t4", "%t5",
    "%t6", "%t7", "%s0", "%s1", "%s2", "%s3", "%s4", "%s5", "%s6", "%s7", "%k0", "%k1", "%gp", "%sp", "%fp", "%ra"]

/-- The flags of code (text, ktext) and of data (data, kdata, stack, heap) (20/R62). -/
def codeFlags : SegmentFlags := ⟨true, false, true⟩
def dataFlags : SegmentFlags := ⟨true, true, false⟩

/-- `SHUF_PACK` (45/R345, R346, D24): the indices lie side by side, lane 0's lowest. -/
def adjacentIndices (bits : Nat) : IndexPacking := ⟨bits, fun lane => bits * lane⟩

/-- `SYSTABLE` (46/R362, D15). The number is compared as a 64-bit value. -/
def serviceOfNumber (n : Word) : Option Service :=
  match n.toNat with
  | 1 => some .printInt
  | 2 => some .printFloat
  | 3 => some .printDouble
  | 4 => some .printString
  | 5 => some .readInt
  | 6 => some .readFloat
  | 7 => some .readDouble
  | 8 => some .readString
  | 9 => some .sbrk
  | 10 => some .exit
  | 11 => some .printChar
  | 12 => some .readChar
  | 13 => some .openFile
  | 14 => some .readFile
  | 15 => some .writeFile
  | 16 => some .closeFile
  | 17 => some .exit2
  | _ => none

/-- `CVT_MODE` (45/R321, D21). -/
def roundingOfSelector (m : BitVec 2) : Option RoundMode :=
  match m.toNat with
  | 0 => some .nearest
  | 1 => some .floor
  | 2 => some .ceil
  | _ => none

/-- The access mode in bits 1:0 of the open flags (46/R377, D32). -/
def accessOfFlags (flags : Word) : Option FdAccess :=
  match (flags.extractLsb' 0 2).toNat with
  | 0 => some .readOnly
  | 1 => some .writeOnly
  | 2 => some .readWrite
  | _ => none

/-- The machine's parameters. The memory map and the three pointers are OPEN in the spec and stand here
at their reference values (DESIGN CHOICE, Log 1, Log 2; unsafe for another map). -/
def config : Config where
  layout := fieldLayout
  itable := instructionTable
  regNames := registerNames
  textBase := 0x400000
  dataBase := 0x10000000
  ktextBase := 0x80000000
  kdataBase := 0x90000000
  stackEnd := 0x80000000
  stackSize := 0x200000
  heapGap := Config.freeGap
  textFlags := codeFlags
  dataFlags := dataFlags
  ktextFlags := codeFlags
  kdataFlags := dataFlags
  stackFlags := dataFlags
  heapFlags := dataFlags
  gpReset := 0x10000000
  spReset := 0x7FFFFFF8
  fpReset := 0x7FFFFFF8
  memInit := 0
  link := 31
  serviceReg := 2
  argReg := fun k => BitVec.ofNat 5 (4 + k.val)
  gpReg := 28
  spReg := 29
  fpReg := 30
  shiftOver := .modulo
  divFault := fun _ _ _ _ => none
  fp := ieeeArith
  cvtMode := roundingOfSelector
  shufPack32 := adjacentIndices 3
  shufPack64 := adjacentIndices 2
  service := serviceOfNumber
  openAccess := accessOfFlags
  openCreate := 0x40
  openTruncate := 0x200
  openAppend := 0x400
  host := Config.freeHost

end Sys2Proof.Machine
end

