-- ==== Sys2Proof/Syntax.lean ====
section
/-! DEFINITION. The instructions, one constructor for each row of spec/opcode_table.json (30/R111 to
R115), with the fields of its format in the order of the word (30/R101). A field that the rule of the
instruction ignores (30/R107) is carried, so that the instruction tells its whole word; no meaning
reads it otherwise (Log 22). -/

namespace Sys2Proof

/-- The instructions of `ITABLE` (30/R112 to R115). `imm` is the raw field: its extension belongs to the
instruction (30/R104). -/
inductive Instr where
  -- J format
  /-- `nop` (R264; ignores addr) -/
  | nop (addr : BitVec 25)
  /-- `syscall` (R360; ignores addr) -/
  | syscall (addr : BitVec 25)
  /-- `j` (R260) -/
  | j (addr : BitVec 25)
  /-- `jal` (R261) -/
  | jal (addr : BitVec 25)
  -- scalar register-register (40_scalar_alu.md)
  /-- `add` (R144) -/
  | add (rs rt rd : RegNum)
  /-- `sub` (R145) -/
  | sub (rs rt rd : RegNum)
  /-- `addw` (R146) -/
  | addw (rs rt rd : RegNum)
  /-- `subw` (R147) -/
  | subw (rs rt rd : RegNum)
  /-- `mult` (R148; ignores rd) -/
  | mult (rs rt rd : RegNum)
  /-- `multu` (R149; ignores rd) -/
  | multu (rs rt rd : RegNum)
  /-- `multw` (R150; ignores rd) -/
  | multw (rs rt rd : RegNum)
  /-- `multuw` (R151; ignores rd) -/
  | multuw (rs rt rd : RegNum)
  /-- `div` (R152; ignores rd) -/
  | div (rs rt rd : RegNum)
  /-- `divu` (R153; ignores rd) -/
  | divu (rs rt rd : RegNum)
  /-- `divw` (R154; ignores rd) -/
  | divw (rs rt rd : RegNum)
  /-- `divuw` (R155; ignores rd) -/
  | divuw (rs rt rd : RegNum)
  /-- `mfhi` (R156; ignores rs, rt) -/
  | mfhi (rs rt rd : RegNum)
  /-- `mflo` (R157; ignores rs, rt) -/
  | mflo (rs rt rd : RegNum)
  /-- `mthi` (R158; ignores rt, rd) -/
  | mthi (rs rt rd : RegNum)
  /-- `mtlo` (R159; ignores rt, rd) -/
  | mtlo (rs rt rd : RegNum)
  /-- `and` (R160) -/
  | and (rs rt rd : RegNum)
  /-- `or` (R161) -/
  | or (rs rt rd : RegNum)
  /-- `xor` (R162) -/
  | xor (rs rt rd : RegNum)
  /-- `nor` (R163) -/
  | nor (rs rt rd : RegNum)
  /-- `sll` (R164) -/
  | sll (rs rt rd : RegNum)
  /-- `srl` (R165) -/
  | srl (rs rt rd : RegNum)
  /-- `sra` (R166) -/
  | sra (rs rt rd : RegNum)
  /-- `sllw` (R167) -/
  | sllw (rs rt rd : RegNum)
  /-- `srlw` (R168) -/
  | srlw (rs rt rd : RegNum)
  /-- `sraw` (R169) -/
  | sraw (rs rt rd : RegNum)
  /-- `slt` (R170) -/
  | slt (rs rt rd : RegNum)
  /-- `sltu` (R171) -/
  | sltu (rs rt rd : RegNum)
  -- control transfer (43_control.md)
  /-- `jr` (R262; ignores rt, rd) -/
  | jr (rs rt rd : RegNum)
  /-- `jalr` (R263; ignores rt, rd) -/
  | jalr (rs rt rd : RegNum)
  -- scalar loads and stores (42_load_store.md)
  /-- `lbx` (R226) -/
  | lbx (rs rt rd : RegNum)
  /-- `lbux` (R227) -/
  | lbux (rs rt rd : RegNum)
  /-- `lhx` (R228) -/
  | lhx (rs rt rd : RegNum)
  /-- `lhux` (R229) -/
  | lhux (rs rt rd : RegNum)
  /-- `lwx` (R230) -/
  | lwx (rs rt rd : RegNum)
  /-- `lwux` (R231) -/
  | lwux (rs rt rd : RegNum)
  /-- `ldx` (R232) -/
  | ldx (rs rt rd : RegNum)
  /-- `sbx` (R233) -/
  | sbx (rs rt rd : RegNum)
  /-- `shx` (R234) -/
  | shx (rs rt rd : RegNum)
  /-- `swx` (R235) -/
  | swx (rs rt rd : RegNum)
  /-- `sdx` (R236) -/
  | sdx (rs rt rd : RegNum)
  -- vector arithmetic, logic and shifts (44_vector_arith.md)
  /-- `vaddi32` (R275) -/
  | vaddi32 (rs rt rd : RegNum)
  /-- `vaddi64` (R276) -/
  | vaddi64 (rs rt rd : RegNum)
  /-- `vaddf32` (R277) -/
  | vaddf32 (rs rt rd : RegNum)
  /-- `vaddf64` (R278) -/
  | vaddf64 (rs rt rd : RegNum)
  /-- `vsubi32` (R279) -/
  | vsubi32 (rs rt rd : RegNum)
  /-- `vsubi64` (R280) -/
  | vsubi64 (rs rt rd : RegNum)
  /-- `vsubf32` (R281) -/
  | vsubf32 (rs rt rd : RegNum)
  /-- `vsubf64` (R282) -/
  | vsubf64 (rs rt rd : RegNum)
  /-- `vmuli32` (R283) -/
  | vmuli32 (rs rt rd : RegNum)
  /-- `vmuli64` (R284) -/
  | vmuli64 (rs rt rd : RegNum)
  /-- `vmulf32` (R285) -/
  | vmulf32 (rs rt rd : RegNum)
  /-- `vmulf64` (R286) -/
  | vmulf64 (rs rt rd : RegNum)
  /-- `vdivi32` (R287) -/
  | vdivi32 (rs rt rd : RegNum)
  /-- `vdivi64` (R288) -/
  | vdivi64 (rs rt rd : RegNum)
  /-- `vdivf32` (R289) -/
  | vdivf32 (rs rt rd : RegNum)
  /-- `vdivf64` (R290) -/
  | vdivf64 (rs rt rd : RegNum)
  /-- `vand` (R291) -/
  | vand (rs rt rd : RegNum)
  /-- `vor` (R292) -/
  | vor (rs rt rd : RegNum)
  /-- `vxor` (R293) -/
  | vxor (rs rt rd : RegNum)
  /-- `vnor` (R294) -/
  | vnor (rs rt rd : RegNum)
  /-- `vsll32` (R295) -/
  | vsll32 (rs rt rd : RegNum)
  /-- `vsll64` (R296) -/
  | vsll64 (rs rt rd : RegNum)
  /-- `vsrl32` (R297) -/
  | vsrl32 (rs rt rd : RegNum)
  /-- `vsrl64` (R298) -/
  | vsrl64 (rs rt rd : RegNum)
  /-- `vsra32` (R299) -/
  | vsra32 (rs rt rd : RegNum)
  /-- `vsra64` (R300) -/
  | vsra64 (rs rt rd : RegNum)
  /-- `vsllv32` (R301) -/
  | vsllv32 (rs rt rd : RegNum)
  /-- `vsllv64` (R302) -/
  | vsllv64 (rs rt rd : RegNum)
  /-- `vsrlv32` (R303) -/
  | vsrlv32 (rs rt rd : RegNum)
  /-- `vsrlv64` (R304) -/
  | vsrlv64 (rs rt rd : RegNum)
  /-- `vsrav32` (R305) -/
  | vsrav32 (rs rt rd : RegNum)
  /-- `vsrav64` (R306) -/
  | vsrav64 (rs rt rd : RegNum)
  -- vector compare, convert, reduce, extract, shuffle, load and store (45_vector_misc.md)
  /-- `vseqi32` (R325) -/
  | vseqi32 (rs rt rd : RegNum)
  /-- `vseqi64` (R326) -/
  | vseqi64 (rs rt rd : RegNum)
  /-- `vseqf32` (R327) -/
  | vseqf32 (rs rt rd : RegNum)
  /-- `vseqf64` (R328) -/
  | vseqf64 (rs rt rd : RegNum)
  /-- `vslti32` (R329) -/
  | vslti32 (rs rt rd : RegNum)
  /-- `vslti64` (R330) -/
  | vslti64 (rs rt rd : RegNum)
  /-- `vsltf32` (R331) -/
  | vsltf32 (rs rt rd : RegNum)
  /-- `vsltf64` (R332) -/
  | vsltf64 (rs rt rd : RegNum)
  /-- `vcvti32f32` (R333) -/
  | vcvti32f32 (rs rt rd : RegNum)
  /-- `vcvti64f64` (R334) -/
  | vcvti64f64 (rs rt rd : RegNum)
  /-- `vcvtf32i32` (R335) -/
  | vcvtf32i32 (rs rt rd : RegNum)
  /-- `vcvtf64i64` (R336) -/
  | vcvtf64i64 (rs rt rd : RegNum)
  /-- `vsumi32` (R337; ignores rt) -/
  | vsumi32 (rs rt rd : RegNum)
  /-- `vsumi64` (R338; ignores rt) -/
  | vsumi64 (rs rt rd : RegNum)
  /-- `vsumf32` (R339; ignores rt) -/
  | vsumf32 (rs rt rd : RegNum)
  /-- `vsumf64` (R340; ignores rt) -/
  | vsumf64 (rs rt rd : RegNum)
  /-- `vmsb32` (R341; ignores rt) -/
  | vmsb32 (rs rt rd : RegNum)
  /-- `vmsb64` (R342; ignores rt) -/
  | vmsb64 (rs rt rd : RegNum)
  /-- `vlsb32` (R343; ignores rt) -/
  | vlsb32 (rs rt rd : RegNum)
  /-- `vlsb64` (R344; ignores rt) -/
  | vlsb64 (rs rt rd : RegNum)
  /-- `vshuf32` (R345) -/
  | vshuf32 (rs rt rd : RegNum)
  /-- `vshuf64` (R346) -/
  | vshuf64 (rs rt rd : RegNum)
  -- scalar immediates and slice loads (41_scalar_imm.md)
  /-- `addi` (R182) -/
  | addi (rs rt : RegNum) (imm : BitVec 15)
  /-- `addiu` (R183) -/
  | addiu (rs rt : RegNum) (imm : BitVec 15)
  /-- `addwi` (R184) -/
  | addwi (rs rt : RegNum) (imm : BitVec 15)
  /-- `addwiu` (R185) -/
  | addwiu (rs rt : RegNum) (imm : BitVec 15)
  /-- `andi` (R186) -/
  | andi (rs rt : RegNum) (imm : BitVec 15)
  /-- `andiu` (R187) -/
  | andiu (rs rt : RegNum) (imm : BitVec 15)
  /-- `ori` (R188) -/
  | ori (rs rt : RegNum) (imm : BitVec 15)
  /-- `oriu` (R189) -/
  | oriu (rs rt : RegNum) (imm : BitVec 15)
  /-- `xori` (R190) -/
  | xori (rs rt : RegNum) (imm : BitVec 15)
  /-- `xoriu` (R191) -/
  | xoriu (rs rt : RegNum) (imm : BitVec 15)
  /-- `slti` (R192) -/
  | slti (rs rt : RegNum) (imm : BitVec 15)
  /-- `sltiu` (R193) -/
  | sltiu (rs rt : RegNum) (imm : BitVec 15)
  /-- `slli` (R194) -/
  | slli (rs rt : RegNum) (imm : BitVec 15)
  /-- `srli` (R195) -/
  | srli (rs rt : RegNum) (imm : BitVec 15)
  /-- `srai` (R196) -/
  | srai (rs rt : RegNum) (imm : BitVec 15)
  /-- `sllwi` (R197) -/
  | sllwi (rs rt : RegNum) (imm : BitVec 15)
  /-- `srlwi` (R198) -/
  | srlwi (rs rt : RegNum) (imm : BitVec 15)
  /-- `srawi` (R199) -/
  | srawi (rs rt : RegNum) (imm : BitVec 15)
  -- scalar loads and stores (42_load_store.md)
  /-- `lb` (R215) -/
  | lb (rs rt : RegNum) (imm : BitVec 15)
  /-- `lbu` (R216) -/
  | lbu (rs rt : RegNum) (imm : BitVec 15)
  /-- `lh` (R217) -/
  | lh (rs rt : RegNum) (imm : BitVec 15)
  /-- `lhu` (R218) -/
  | lhu (rs rt : RegNum) (imm : BitVec 15)
  /-- `lw` (R219) -/
  | lw (rs rt : RegNum) (imm : BitVec 15)
  /-- `lwu` (R220) -/
  | lwu (rs rt : RegNum) (imm : BitVec 15)
  /-- `ld` (R221) -/
  | ld (rs rt : RegNum) (imm : BitVec 15)
  /-- `sb` (R222) -/
  | sb (rs rt : RegNum) (imm : BitVec 15)
  /-- `sh` (R223) -/
  | sh (rs rt : RegNum) (imm : BitVec 15)
  /-- `sw` (R224) -/
  | sw (rs rt : RegNum) (imm : BitVec 15)
  /-- `sd` (R225) -/
  | sd (rs rt : RegNum) (imm : BitVec 15)
  -- vector compare, convert, reduce, extract, shuffle, load and store (45_vector_misc.md)
  /-- `vld` (R347) -/
  | vld (rs rt : RegNum) (imm : BitVec 15)
  /-- `vst` (R348) -/
  | vst (rs rt : RegNum) (imm : BitVec 15)
  -- control transfer (43_control.md)
  /-- `beq` (R254) -/
  | beq (rs rt : RegNum) (imm : BitVec 15)
  /-- `bne` (R255) -/
  | bne (rs rt : RegNum) (imm : BitVec 15)
  /-- `blt` (R256) -/
  | blt (rs rt : RegNum) (imm : BitVec 15)
  /-- `bge` (R257) -/
  | bge (rs rt : RegNum) (imm : BitVec 15)
  /-- `bltu` (R258) -/
  | bltu (rs rt : RegNum) (imm : BitVec 15)
  /-- `bgeu` (R259) -/
  | bgeu (rs rt : RegNum) (imm : BitVec 15)
  -- scalar immediates and slice loads (41_scalar_imm.md)
  /-- `li.0` (R201) -/
  | li0 (rd : RegNum) (imm : BitVec 16)
  /-- `li.1` (R202) -/
  | li1 (rd : RegNum) (imm : BitVec 16)
  /-- `li.2` (R203) -/
  | li2 (rd : RegNum) (imm : BitVec 16)
  /-- `li.3` (R204) -/
  | li3 (rd : RegNum) (imm : BitVec 16)
  deriving DecidableEq, Repr

end Sys2Proof
end

