-- ==== Sys2Proof/WellFormed.lean ====
section
/-! DEFINITION. Well-formed instructions: what the assembler writes (30/R107, R120). Every operand
fits its field by its type; what is left to check is that an ignored field is 0. An instruction that
is not well formed still decodes and runs: an ignored field has no effect. -/

namespace Sys2Proof

/-- The ignored fields of the instruction are 0 (30/R107). -/
def Instr.wf : Instr → Bool
  | .nop addr => addr == 0
  | .syscall addr => addr == 0
  | .j _ => true
  | .jal _ => true
  | .add _ _ _ => true
  | .sub _ _ _ => true
  | .addw _ _ _ => true
  | .subw _ _ _ => true
  | .mult _ _ rd => rd == 0
  | .multu _ _ rd => rd == 0
  | .multw _ _ rd => rd == 0
  | .multuw _ _ rd => rd == 0
  | .div _ _ rd => rd == 0
  | .divu _ _ rd => rd == 0
  | .divw _ _ rd => rd == 0
  | .divuw _ _ rd => rd == 0
  | .mfhi rs rt _ => rs == 0 && rt == 0
  | .mflo rs rt _ => rs == 0 && rt == 0
  | .mthi _ rt rd => rt == 0 && rd == 0
  | .mtlo _ rt rd => rt == 0 && rd == 0
  | .and _ _ _ => true
  | .or _ _ _ => true
  | .xor _ _ _ => true
  | .nor _ _ _ => true
  | .sll _ _ _ => true
  | .srl _ _ _ => true
  | .sra _ _ _ => true
  | .sllw _ _ _ => true
  | .srlw _ _ _ => true
  | .sraw _ _ _ => true
  | .slt _ _ _ => true
  | .sltu _ _ _ => true
  | .jr _ rt rd => rt == 0 && rd == 0
  | .jalr _ rt rd => rt == 0 && rd == 0
  | .lbx _ _ _ => true
  | .lbux _ _ _ => true
  | .lhx _ _ _ => true
  | .lhux _ _ _ => true
  | .lwx _ _ _ => true
  | .lwux _ _ _ => true
  | .ldx _ _ _ => true
  | .sbx _ _ _ => true
  | .shx _ _ _ => true
  | .swx _ _ _ => true
  | .sdx _ _ _ => true
  | .vaddi32 _ _ _ => true
  | .vaddi64 _ _ _ => true
  | .vaddf32 _ _ _ => true
  | .vaddf64 _ _ _ => true
  | .vsubi32 _ _ _ => true
  | .vsubi64 _ _ _ => true
  | .vsubf32 _ _ _ => true
  | .vsubf64 _ _ _ => true
  | .vmuli32 _ _ _ => true
  | .vmuli64 _ _ _ => true
  | .vmulf32 _ _ _ => true
  | .vmulf64 _ _ _ => true
  | .vdivi32 _ _ _ => true
  | .vdivi64 _ _ _ => true
  | .vdivf32 _ _ _ => true
  | .vdivf64 _ _ _ => true
  | .vand _ _ _ => true
  | .vor _ _ _ => true
  | .vxor _ _ _ => true
  | .vnor _ _ _ => true
  | .vsll32 _ _ _ => true
  | .vsll64 _ _ _ => true
  | .vsrl32 _ _ _ => true
  | .vsrl64 _ _ _ => true
  | .vsra32 _ _ _ => true
  | .vsra64 _ _ _ => true
  | .vsllv32 _ _ _ => true
  | .vsllv64 _ _ _ => true
  | .vsrlv32 _ _ _ => true
  | .vsrlv64 _ _ _ => true
  | .vsrav32 _ _ _ => true
  | .vsrav64 _ _ _ => true
  | .vseqi32 _ _ _ => true
  | .vseqi64 _ _ _ => true
  | .vseqf32 _ _ _ => true
  | .vseqf64 _ _ _ => true
  | .vslti32 _ _ _ => true
  | .vslti64 _ _ _ => true
  | .vsltf32 _ _ _ => true
  | .vsltf64 _ _ _ => true
  | .vcvti32f32 _ _ _ => true
  | .vcvti64f64 _ _ _ => true
  | .vcvtf32i32 _ _ _ => true
  | .vcvtf64i64 _ _ _ => true
  | .vsumi32 _ rt _ => rt == 0
  | .vsumi64 _ rt _ => rt == 0
  | .vsumf32 _ rt _ => rt == 0
  | .vsumf64 _ rt _ => rt == 0
  | .vmsb32 _ rt _ => rt == 0
  | .vmsb64 _ rt _ => rt == 0
  | .vlsb32 _ rt _ => rt == 0
  | .vlsb64 _ rt _ => rt == 0
  | .vshuf32 _ _ _ => true
  | .vshuf64 _ _ _ => true
  | .addi _ _ _ => true
  | .addiu _ _ _ => true
  | .addwi _ _ _ => true
  | .addwiu _ _ _ => true
  | .andi _ _ _ => true
  | .andiu _ _ _ => true
  | .ori _ _ _ => true
  | .oriu _ _ _ => true
  | .xori _ _ _ => true
  | .xoriu _ _ _ => true
  | .slti _ _ _ => true
  | .sltiu _ _ _ => true
  | .slli _ _ _ => true
  | .srli _ _ _ => true
  | .srai _ _ _ => true
  | .sllwi _ _ _ => true
  | .srlwi _ _ _ => true
  | .srawi _ _ _ => true
  | .lb _ _ _ => true
  | .lbu _ _ _ => true
  | .lh _ _ _ => true
  | .lhu _ _ _ => true
  | .lw _ _ _ => true
  | .lwu _ _ _ => true
  | .ld _ _ _ => true
  | .sb _ _ _ => true
  | .sh _ _ _ => true
  | .sw _ _ _ => true
  | .sd _ _ _ => true
  | .vld _ _ _ => true
  | .vst _ _ _ => true
  | .beq _ _ _ => true
  | .bne _ _ _ => true
  | .blt _ _ _ => true
  | .bge _ _ _ => true
  | .bltu _ _ _ => true
  | .bgeu _ _ _ => true
  | .li0 _ _ => true
  | .li1 _ _ => true
  | .li2 _ _ => true
  | .li3 _ _ => true

end Sys2Proof
end

