-- ==== Sys2Proof/Decode.lean ====
section
/-! DEFINITION. The decoder (30/R100 steps 3 to 6, R101 to R107, R111 to R116) and the encoder (30/R120). Both read
the positions of the fields and the numbers of the instructions from the parameters `LAYOUT` and `ITABLE` of 00/R5. -/

namespace Sys2Proof

open Machine

/-- Why a word, or a list of bytes, is no instruction (30/R116). -/
inductive DecodeReject where
  /-- no instruction has this opcode (30/R100 step 4) -/
  | unknownOpcode
  /-- an R or EI opcode under which no instruction has this func (30/R100 step 6) -/
  | unknownFunc
  /-- fewer than four bytes: only for a caller that hands over bytes, the fetch reads four -/
  | truncated
  deriving DecidableEq, Repr

/-! ### Fields of a word (30/R101, `LAYOUT`) -/

/-- The opcode, `w[31:25]`. -/
def opcodeOf (w : InstrWord) : BitVec 7 := w.extractLsb' config.layout.opcode 7
/-- `rs` of R, `w[24:20]`. -/
def rsOf (w : InstrWord) : RegNum := w.extractLsb' config.layout.r.rs 5
/-- `rt` of R, `w[19:15]`. -/
def rtOf (w : InstrWord) : RegNum := w.extractLsb' config.layout.r.rt 5
/-- `rd` of R, `w[14:10]`. -/
def rdOf (w : InstrWord) : RegNum := w.extractLsb' config.layout.r.rd 5
/-- `func` of R, `w[9:0]`. -/
def funcOf (w : InstrWord) : BitVec 10 := w.extractLsb' config.layout.r.func 10
/-- `rs` of I, `w[24:20]`. -/
def iRsOf (w : InstrWord) : RegNum := w.extractLsb' config.layout.i.rs 5
/-- `rt` of I, `w[19:15]`. -/
def iRtOf (w : InstrWord) : RegNum := w.extractLsb' config.layout.i.rt 5
/-- `imm` of I, `w[14:0]`. -/
def immOf (w : InstrWord) : BitVec 15 := w.extractLsb' config.layout.i.imm 15
/-- `addr` of J, `w[24:0]`. -/
def addrOf (w : InstrWord) : BitVec 25 := w.extractLsb' config.layout.j.addr 25
/-- `rd` of EI, `w[24:20]`. -/
def eiRdOf (w : InstrWord) : RegNum := w.extractLsb' config.layout.ei.rd 5
/-- `func` of EI, `w[19:16]`. -/
def eiFuncOf (w : InstrWord) : BitVec 4 := w.extractLsb' config.layout.ei.func 4
/-- `imm` of EI, `w[15:0]`. -/
def eiImmOf (w : InstrWord) : BitVec 16 := w.extractLsb' config.layout.ei.imm 16

/-! ### Decode (30/R100, `ITABLE`) -/

/-- J format. -/
def Mnemonic.formatJ : List Mnemonic :=
  [.nop, .syscall, .j, .jal]

/-- Scalar R format, opcode 0x08. -/
def Mnemonic.scalarR : List Mnemonic :=
  [.add, .sub, .addw, .subw, .mult, .multu, .multw, .multuw, .div, .divu, .divw, .divuw, .mfhi, .mflo,
   .mthi, .mtlo, .and, .or, .xor, .nor, .sll, .srl, .sra, .sllw, .srlw, .sraw, .slt, .sltu, .jr, .jalr,
   .lbx, .lbux, .lhx, .lhux, .lwx, .lwux, .ldx, .sbx, .shx, .swx, .sdx]

/-- Vector R format, opcode 0x09. -/
def Mnemonic.vectorR : List Mnemonic :=
  [.vaddi32, .vaddi64, .vaddf32, .vaddf64, .vsubi32, .vsubi64, .vsubf32, .vsubf64, .vmuli32, .vmuli64,
   .vmulf32, .vmulf64, .vdivi32, .vdivi64, .vdivf32, .vdivf64, .vand, .vor, .vxor, .vnor, .vsll32, .vsll64,
   .vsrl32, .vsrl64, .vsra32, .vsra64, .vsllv32, .vsllv64, .vsrlv32, .vsrlv64, .vsrav32, .vsrav64,
   .vseqi32, .vseqi64, .vseqf32, .vseqf64, .vslti32, .vslti64, .vsltf32, .vsltf64, .vcvti32f32,
   .vcvti64f64, .vcvtf32i32, .vcvtf64i64, .vsumi32, .vsumi64, .vsumf32, .vsumf64, .vmsb32, .vmsb64,
   .vlsb32, .vlsb64, .vshuf32, .vshuf64]

/-- I format. -/
def Mnemonic.formatI : List Mnemonic :=
  [.addi, .addiu, .addwi, .addwiu, .andi, .andiu, .ori, .oriu, .xori, .xoriu, .slti, .sltiu, .slli, .srli,
   .srai, .sllwi, .srlwi, .srawi, .lb, .lbu, .lh, .lhu, .lw, .lwu, .ld, .sb, .sh, .sw, .sd, .vld, .vst,
   .beq, .bne, .blt, .bge, .bltu, .bgeu]

/-- EI format. -/
def Mnemonic.formatEI : List Mnemonic :=
  [.li0, .li1, .li2, .li3]

/-- The rows of `ITABLE`. -/
def Mnemonic.all : List Mnemonic :=
  Mnemonic.formatJ ++ Mnemonic.scalarR ++ Mnemonic.vectorR ++ Mnemonic.formatI ++ Mnemonic.formatEI

/-- The format an opcode selects, `none` where no instruction has it (30/R102). -/
def formatOf (op : BitVec 7) : Option Format :=
  (Mnemonic.all.find? fun m => (config.itable m).opcode == op).map fun m => (config.itable m).format

/-- The func of a word in a format; a format without the field has 0 in its rows (30/R103, R106). -/
def Format.funcIn (f : Format) (w : InstrWord) : BitVec 10 :=
  match f with
  | .R => funcOf w
  | .I => 0
  | .J => 0
  | .EI => (eiFuncOf w).setWidth 10

/-- The row with this opcode and func (30/R103 to R106). -/
def mnemonicOf (op : BitVec 7) (func : BitVec 10) : Option Mnemonic :=
  Mnemonic.all.find? fun m => (config.itable m).opcode == op && (config.itable m).func == func

/-- The instruction with this mnemonic whose operands are the fields of the word (30/R103 to R106). -/
def Mnemonic.read (m : Mnemonic) (w : InstrWord) : Instr :=
  match m with
  | .nop => .nop (addrOf w)
  | .syscall => .syscall (addrOf w)
  | .j => .j (addrOf w)
  | .jal => .jal (addrOf w)
  | .add => .add (rsOf w) (rtOf w) (rdOf w)
  | .sub => .sub (rsOf w) (rtOf w) (rdOf w)
  | .addw => .addw (rsOf w) (rtOf w) (rdOf w)
  | .subw => .subw (rsOf w) (rtOf w) (rdOf w)
  | .mult => .mult (rsOf w) (rtOf w) (rdOf w)
  | .multu => .multu (rsOf w) (rtOf w) (rdOf w)
  | .multw => .multw (rsOf w) (rtOf w) (rdOf w)
  | .multuw => .multuw (rsOf w) (rtOf w) (rdOf w)
  | .div => .div (rsOf w) (rtOf w) (rdOf w)
  | .divu => .divu (rsOf w) (rtOf w) (rdOf w)
  | .divw => .divw (rsOf w) (rtOf w) (rdOf w)
  | .divuw => .divuw (rsOf w) (rtOf w) (rdOf w)
  | .mfhi => .mfhi (rsOf w) (rtOf w) (rdOf w)
  | .mflo => .mflo (rsOf w) (rtOf w) (rdOf w)
  | .mthi => .mthi (rsOf w) (rtOf w) (rdOf w)
  | .mtlo => .mtlo (rsOf w) (rtOf w) (rdOf w)
  | .and => .and (rsOf w) (rtOf w) (rdOf w)
  | .or => .or (rsOf w) (rtOf w) (rdOf w)
  | .xor => .xor (rsOf w) (rtOf w) (rdOf w)
  | .nor => .nor (rsOf w) (rtOf w) (rdOf w)
  | .sll => .sll (rsOf w) (rtOf w) (rdOf w)
  | .srl => .srl (rsOf w) (rtOf w) (rdOf w)
  | .sra => .sra (rsOf w) (rtOf w) (rdOf w)
  | .sllw => .sllw (rsOf w) (rtOf w) (rdOf w)
  | .srlw => .srlw (rsOf w) (rtOf w) (rdOf w)
  | .sraw => .sraw (rsOf w) (rtOf w) (rdOf w)
  | .slt => .slt (rsOf w) (rtOf w) (rdOf w)
  | .sltu => .sltu (rsOf w) (rtOf w) (rdOf w)
  | .jr => .jr (rsOf w) (rtOf w) (rdOf w)
  | .jalr => .jalr (rsOf w) (rtOf w) (rdOf w)
  | .lbx => .lbx (rsOf w) (rtOf w) (rdOf w)
  | .lbux => .lbux (rsOf w) (rtOf w) (rdOf w)
  | .lhx => .lhx (rsOf w) (rtOf w) (rdOf w)
  | .lhux => .lhux (rsOf w) (rtOf w) (rdOf w)
  | .lwx => .lwx (rsOf w) (rtOf w) (rdOf w)
  | .lwux => .lwux (rsOf w) (rtOf w) (rdOf w)
  | .ldx => .ldx (rsOf w) (rtOf w) (rdOf w)
  | .sbx => .sbx (rsOf w) (rtOf w) (rdOf w)
  | .shx => .shx (rsOf w) (rtOf w) (rdOf w)
  | .swx => .swx (rsOf w) (rtOf w) (rdOf w)
  | .sdx => .sdx (rsOf w) (rtOf w) (rdOf w)
  | .vaddi32 => .vaddi32 (rsOf w) (rtOf w) (rdOf w)
  | .vaddi64 => .vaddi64 (rsOf w) (rtOf w) (rdOf w)
  | .vaddf32 => .vaddf32 (rsOf w) (rtOf w) (rdOf w)
  | .vaddf64 => .vaddf64 (rsOf w) (rtOf w) (rdOf w)
  | .vsubi32 => .vsubi32 (rsOf w) (rtOf w) (rdOf w)
  | .vsubi64 => .vsubi64 (rsOf w) (rtOf w) (rdOf w)
  | .vsubf32 => .vsubf32 (rsOf w) (rtOf w) (rdOf w)
  | .vsubf64 => .vsubf64 (rsOf w) (rtOf w) (rdOf w)
  | .vmuli32 => .vmuli32 (rsOf w) (rtOf w) (rdOf w)
  | .vmuli64 => .vmuli64 (rsOf w) (rtOf w) (rdOf w)
  | .vmulf32 => .vmulf32 (rsOf w) (rtOf w) (rdOf w)
  | .vmulf64 => .vmulf64 (rsOf w) (rtOf w) (rdOf w)
  | .vdivi32 => .vdivi32 (rsOf w) (rtOf w) (rdOf w)
  | .vdivi64 => .vdivi64 (rsOf w) (rtOf w) (rdOf w)
  | .vdivf32 => .vdivf32 (rsOf w) (rtOf w) (rdOf w)
  | .vdivf64 => .vdivf64 (rsOf w) (rtOf w) (rdOf w)
  | .vand => .vand (rsOf w) (rtOf w) (rdOf w)
  | .vor => .vor (rsOf w) (rtOf w) (rdOf w)
  | .vxor => .vxor (rsOf w) (rtOf w) (rdOf w)
  | .vnor => .vnor (rsOf w) (rtOf w) (rdOf w)
  | .vsll32 => .vsll32 (rsOf w) (rtOf w) (rdOf w)
  | .vsll64 => .vsll64 (rsOf w) (rtOf w) (rdOf w)
  | .vsrl32 => .vsrl32 (rsOf w) (rtOf w) (rdOf w)
  | .vsrl64 => .vsrl64 (rsOf w) (rtOf w) (rdOf w)
  | .vsra32 => .vsra32 (rsOf w) (rtOf w) (rdOf w)
  | .vsra64 => .vsra64 (rsOf w) (rtOf w) (rdOf w)
  | .vsllv32 => .vsllv32 (rsOf w) (rtOf w) (rdOf w)
  | .vsllv64 => .vsllv64 (rsOf w) (rtOf w) (rdOf w)
  | .vsrlv32 => .vsrlv32 (rsOf w) (rtOf w) (rdOf w)
  | .vsrlv64 => .vsrlv64 (rsOf w) (rtOf w) (rdOf w)
  | .vsrav32 => .vsrav32 (rsOf w) (rtOf w) (rdOf w)
  | .vsrav64 => .vsrav64 (rsOf w) (rtOf w) (rdOf w)
  | .vseqi32 => .vseqi32 (rsOf w) (rtOf w) (rdOf w)
  | .vseqi64 => .vseqi64 (rsOf w) (rtOf w) (rdOf w)
  | .vseqf32 => .vseqf32 (rsOf w) (rtOf w) (rdOf w)
  | .vseqf64 => .vseqf64 (rsOf w) (rtOf w) (rdOf w)
  | .vslti32 => .vslti32 (rsOf w) (rtOf w) (rdOf w)
  | .vslti64 => .vslti64 (rsOf w) (rtOf w) (rdOf w)
  | .vsltf32 => .vsltf32 (rsOf w) (rtOf w) (rdOf w)
  | .vsltf64 => .vsltf64 (rsOf w) (rtOf w) (rdOf w)
  | .vcvti32f32 => .vcvti32f32 (rsOf w) (rtOf w) (rdOf w)
  | .vcvti64f64 => .vcvti64f64 (rsOf w) (rtOf w) (rdOf w)
  | .vcvtf32i32 => .vcvtf32i32 (rsOf w) (rtOf w) (rdOf w)
  | .vcvtf64i64 => .vcvtf64i64 (rsOf w) (rtOf w) (rdOf w)
  | .vsumi32 => .vsumi32 (rsOf w) (rtOf w) (rdOf w)
  | .vsumi64 => .vsumi64 (rsOf w) (rtOf w) (rdOf w)
  | .vsumf32 => .vsumf32 (rsOf w) (rtOf w) (rdOf w)
  | .vsumf64 => .vsumf64 (rsOf w) (rtOf w) (rdOf w)
  | .vmsb32 => .vmsb32 (rsOf w) (rtOf w) (rdOf w)
  | .vmsb64 => .vmsb64 (rsOf w) (rtOf w) (rdOf w)
  | .vlsb32 => .vlsb32 (rsOf w) (rtOf w) (rdOf w)
  | .vlsb64 => .vlsb64 (rsOf w) (rtOf w) (rdOf w)
  | .vshuf32 => .vshuf32 (rsOf w) (rtOf w) (rdOf w)
  | .vshuf64 => .vshuf64 (rsOf w) (rtOf w) (rdOf w)
  | .addi => .addi (iRsOf w) (iRtOf w) (immOf w)
  | .addiu => .addiu (iRsOf w) (iRtOf w) (immOf w)
  | .addwi => .addwi (iRsOf w) (iRtOf w) (immOf w)
  | .addwiu => .addwiu (iRsOf w) (iRtOf w) (immOf w)
  | .andi => .andi (iRsOf w) (iRtOf w) (immOf w)
  | .andiu => .andiu (iRsOf w) (iRtOf w) (immOf w)
  | .ori => .ori (iRsOf w) (iRtOf w) (immOf w)
  | .oriu => .oriu (iRsOf w) (iRtOf w) (immOf w)
  | .xori => .xori (iRsOf w) (iRtOf w) (immOf w)
  | .xoriu => .xoriu (iRsOf w) (iRtOf w) (immOf w)
  | .slti => .slti (iRsOf w) (iRtOf w) (immOf w)
  | .sltiu => .sltiu (iRsOf w) (iRtOf w) (immOf w)
  | .slli => .slli (iRsOf w) (iRtOf w) (immOf w)
  | .srli => .srli (iRsOf w) (iRtOf w) (immOf w)
  | .srai => .srai (iRsOf w) (iRtOf w) (immOf w)
  | .sllwi => .sllwi (iRsOf w) (iRtOf w) (immOf w)
  | .srlwi => .srlwi (iRsOf w) (iRtOf w) (immOf w)
  | .srawi => .srawi (iRsOf w) (iRtOf w) (immOf w)
  | .lb => .lb (iRsOf w) (iRtOf w) (immOf w)
  | .lbu => .lbu (iRsOf w) (iRtOf w) (immOf w)
  | .lh => .lh (iRsOf w) (iRtOf w) (immOf w)
  | .lhu => .lhu (iRsOf w) (iRtOf w) (immOf w)
  | .lw => .lw (iRsOf w) (iRtOf w) (immOf w)
  | .lwu => .lwu (iRsOf w) (iRtOf w) (immOf w)
  | .ld => .ld (iRsOf w) (iRtOf w) (immOf w)
  | .sb => .sb (iRsOf w) (iRtOf w) (immOf w)
  | .sh => .sh (iRsOf w) (iRtOf w) (immOf w)
  | .sw => .sw (iRsOf w) (iRtOf w) (immOf w)
  | .sd => .sd (iRsOf w) (iRtOf w) (immOf w)
  | .vld => .vld (iRsOf w) (iRtOf w) (immOf w)
  | .vst => .vst (iRsOf w) (iRtOf w) (immOf w)
  | .beq => .beq (iRsOf w) (iRtOf w) (immOf w)
  | .bne => .bne (iRsOf w) (iRtOf w) (immOf w)
  | .blt => .blt (iRsOf w) (iRtOf w) (immOf w)
  | .bge => .bge (iRsOf w) (iRtOf w) (immOf w)
  | .bltu => .bltu (iRsOf w) (iRtOf w) (immOf w)
  | .bgeu => .bgeu (iRsOf w) (iRtOf w) (immOf w)
  | .li0 => .li0 (eiRdOf w) (eiImmOf w)
  | .li1 => .li1 (eiRdOf w) (eiImmOf w)
  | .li2 => .li2 (eiRdOf w) (eiImmOf w)
  | .li3 => .li3 (eiRdOf w) (eiImmOf w)

/-- Steps 3 to 6 of `Clock()` (30/R100): the opcode, its format, the func, the instruction with its fields. The
word is the only input (30/R117). -/
def decode (w : InstrWord) : Except DecodeReject Instr :=
  match formatOf (opcodeOf w) with
  | none => .error .unknownOpcode
  | some f =>
    match mnemonicOf (opcodeOf w) (f.funcIn w) with
    | none => .error .unknownFunc
    | some m => .ok (m.read w)

/-- The word of four bytes, the first at the lowest address (20/R72): little-endian. -/
def wordOfBytes (b0 b1 b2 b3 : Byte) : InstrWord := b3 ++ b2 ++ b1 ++ b0

/-- The decoder on any bytes: the instruction of the first four and the bytes after them. -/
def decodeBytes : List Byte → Except DecodeReject (Instr × List Byte)
  | b0 :: b1 :: b2 :: b3 :: rest => (decode (wordOfBytes b0 b1 b2 b3)).map (·, rest)
  | _ => .error .truncated

/-! ### Encode (30/R101, R111 to R115, R120) -/

/-- A field's value at its place in the word, the other bits 0. -/
def placed {n : Nat} (lsb : Nat) (v : BitVec n) : InstrWord := v.setWidth 32 <<< lsb

/-- The words of the four formats. -/
def jWord (op : BitVec 7) (addr : BitVec 25) : InstrWord :=
  placed config.layout.opcode op ||| placed config.layout.j.addr addr
def iWord (op : BitVec 7) (rs rt : RegNum) (imm : BitVec 15) : InstrWord :=
  placed config.layout.opcode op ||| placed config.layout.i.rs rs ||| placed config.layout.i.rt rt |||
    placed config.layout.i.imm imm
def rWord (op : BitVec 7) (rs rt rd : RegNum) (func : BitVec 10) : InstrWord :=
  placed config.layout.opcode op ||| placed config.layout.r.rs rs ||| placed config.layout.r.rt rt |||
    placed config.layout.r.rd rd ||| placed config.layout.r.func func
def eiWord (op : BitVec 7) (rd : RegNum) (func : BitVec 4) (imm : BitVec 16) : InstrWord :=
  placed config.layout.opcode op ||| placed config.layout.ei.rd rd ||| placed config.layout.ei.func func |||
    placed config.layout.ei.imm imm

/-- A word of each format with the opcode and func of a row. -/
def encodeJ (m : Mnemonic) (addr : BitVec 25) : InstrWord := jWord (config.itable m).opcode addr
def encodeI (m : Mnemonic) (rs rt : RegNum) (imm : BitVec 15) : InstrWord :=
  iWord (config.itable m).opcode rs rt imm
def encodeR (m : Mnemonic) (rs rt rd : RegNum) : InstrWord :=
  rWord (config.itable m).opcode rs rt rd (config.itable m).func
def encodeEI (m : Mnemonic) (rd : RegNum) (imm : BitVec 16) : InstrWord :=
  eiWord (config.itable m).opcode rd ((config.itable m).func.setWidth 4) imm

/-- The word of an instruction, each operand in its field (30/R120). -/
def encode : Instr → InstrWord
  | .nop addr => encodeJ .nop addr
  | .syscall addr => encodeJ .syscall addr
  | .j addr => encodeJ .j addr
  | .jal addr => encodeJ .jal addr
  | .add rs rt rd => encodeR .add rs rt rd
  | .sub rs rt rd => encodeR .sub rs rt rd
  | .addw rs rt rd => encodeR .addw rs rt rd
  | .subw rs rt rd => encodeR .subw rs rt rd
  | .mult rs rt rd => encodeR .mult rs rt rd
  | .multu rs rt rd => encodeR .multu rs rt rd
  | .multw rs rt rd => encodeR .multw rs rt rd
  | .multuw rs rt rd => encodeR .multuw rs rt rd
  | .div rs rt rd => encodeR .div rs rt rd
  | .divu rs rt rd => encodeR .divu rs rt rd
  | .divw rs rt rd => encodeR .divw rs rt rd
  | .divuw rs rt rd => encodeR .divuw rs rt rd
  | .mfhi rs rt rd => encodeR .mfhi rs rt rd
  | .mflo rs rt rd => encodeR .mflo rs rt rd
  | .mthi rs rt rd => encodeR .mthi rs rt rd
  | .mtlo rs rt rd => encodeR .mtlo rs rt rd
  | .and rs rt rd => encodeR .and rs rt rd
  | .or rs rt rd => encodeR .or rs rt rd
  | .xor rs rt rd => encodeR .xor rs rt rd
  | .nor rs rt rd => encodeR .nor rs rt rd
  | .sll rs rt rd => encodeR .sll rs rt rd
  | .srl rs rt rd => encodeR .srl rs rt rd
  | .sra rs rt rd => encodeR .sra rs rt rd
  | .sllw rs rt rd => encodeR .sllw rs rt rd
  | .srlw rs rt rd => encodeR .srlw rs rt rd
  | .sraw rs rt rd => encodeR .sraw rs rt rd
  | .slt rs rt rd => encodeR .slt rs rt rd
  | .sltu rs rt rd => encodeR .sltu rs rt rd
  | .jr rs rt rd => encodeR .jr rs rt rd
  | .jalr rs rt rd => encodeR .jalr rs rt rd
  | .lbx rs rt rd => encodeR .lbx rs rt rd
  | .lbux rs rt rd => encodeR .lbux rs rt rd
  | .lhx rs rt rd => encodeR .lhx rs rt rd
  | .lhux rs rt rd => encodeR .lhux rs rt rd
  | .lwx rs rt rd => encodeR .lwx rs rt rd
  | .lwux rs rt rd => encodeR .lwux rs rt rd
  | .ldx rs rt rd => encodeR .ldx rs rt rd
  | .sbx rs rt rd => encodeR .sbx rs rt rd
  | .shx rs rt rd => encodeR .shx rs rt rd
  | .swx rs rt rd => encodeR .swx rs rt rd
  | .sdx rs rt rd => encodeR .sdx rs rt rd
  | .vaddi32 rs rt rd => encodeR .vaddi32 rs rt rd
  | .vaddi64 rs rt rd => encodeR .vaddi64 rs rt rd
  | .vaddf32 rs rt rd => encodeR .vaddf32 rs rt rd
  | .vaddf64 rs rt rd => encodeR .vaddf64 rs rt rd
  | .vsubi32 rs rt rd => encodeR .vsubi32 rs rt rd
  | .vsubi64 rs rt rd => encodeR .vsubi64 rs rt rd
  | .vsubf32 rs rt rd => encodeR .vsubf32 rs rt rd
  | .vsubf64 rs rt rd => encodeR .vsubf64 rs rt rd
  | .vmuli32 rs rt rd => encodeR .vmuli32 rs rt rd
  | .vmuli64 rs rt rd => encodeR .vmuli64 rs rt rd
  | .vmulf32 rs rt rd => encodeR .vmulf32 rs rt rd
  | .vmulf64 rs rt rd => encodeR .vmulf64 rs rt rd
  | .vdivi32 rs rt rd => encodeR .vdivi32 rs rt rd
  | .vdivi64 rs rt rd => encodeR .vdivi64 rs rt rd
  | .vdivf32 rs rt rd => encodeR .vdivf32 rs rt rd
  | .vdivf64 rs rt rd => encodeR .vdivf64 rs rt rd
  | .vand rs rt rd => encodeR .vand rs rt rd
  | .vor rs rt rd => encodeR .vor rs rt rd
  | .vxor rs rt rd => encodeR .vxor rs rt rd
  | .vnor rs rt rd => encodeR .vnor rs rt rd
  | .vsll32 rs rt rd => encodeR .vsll32 rs rt rd
  | .vsll64 rs rt rd => encodeR .vsll64 rs rt rd
  | .vsrl32 rs rt rd => encodeR .vsrl32 rs rt rd
  | .vsrl64 rs rt rd => encodeR .vsrl64 rs rt rd
  | .vsra32 rs rt rd => encodeR .vsra32 rs rt rd
  | .vsra64 rs rt rd => encodeR .vsra64 rs rt rd
  | .vsllv32 rs rt rd => encodeR .vsllv32 rs rt rd
  | .vsllv64 rs rt rd => encodeR .vsllv64 rs rt rd
  | .vsrlv32 rs rt rd => encodeR .vsrlv32 rs rt rd
  | .vsrlv64 rs rt rd => encodeR .vsrlv64 rs rt rd
  | .vsrav32 rs rt rd => encodeR .vsrav32 rs rt rd
  | .vsrav64 rs rt rd => encodeR .vsrav64 rs rt rd
  | .vseqi32 rs rt rd => encodeR .vseqi32 rs rt rd
  | .vseqi64 rs rt rd => encodeR .vseqi64 rs rt rd
  | .vseqf32 rs rt rd => encodeR .vseqf32 rs rt rd
  | .vseqf64 rs rt rd => encodeR .vseqf64 rs rt rd
  | .vslti32 rs rt rd => encodeR .vslti32 rs rt rd
  | .vslti64 rs rt rd => encodeR .vslti64 rs rt rd
  | .vsltf32 rs rt rd => encodeR .vsltf32 rs rt rd
  | .vsltf64 rs rt rd => encodeR .vsltf64 rs rt rd
  | .vcvti32f32 rs rt rd => encodeR .vcvti32f32 rs rt rd
  | .vcvti64f64 rs rt rd => encodeR .vcvti64f64 rs rt rd
  | .vcvtf32i32 rs rt rd => encodeR .vcvtf32i32 rs rt rd
  | .vcvtf64i64 rs rt rd => encodeR .vcvtf64i64 rs rt rd
  | .vsumi32 rs rt rd => encodeR .vsumi32 rs rt rd
  | .vsumi64 rs rt rd => encodeR .vsumi64 rs rt rd
  | .vsumf32 rs rt rd => encodeR .vsumf32 rs rt rd
  | .vsumf64 rs rt rd => encodeR .vsumf64 rs rt rd
  | .vmsb32 rs rt rd => encodeR .vmsb32 rs rt rd
  | .vmsb64 rs rt rd => encodeR .vmsb64 rs rt rd
  | .vlsb32 rs rt rd => encodeR .vlsb32 rs rt rd
  | .vlsb64 rs rt rd => encodeR .vlsb64 rs rt rd
  | .vshuf32 rs rt rd => encodeR .vshuf32 rs rt rd
  | .vshuf64 rs rt rd => encodeR .vshuf64 rs rt rd
  | .addi rs rt imm => encodeI .addi rs rt imm
  | .addiu rs rt imm => encodeI .addiu rs rt imm
  | .addwi rs rt imm => encodeI .addwi rs rt imm
  | .addwiu rs rt imm => encodeI .addwiu rs rt imm
  | .andi rs rt imm => encodeI .andi rs rt imm
  | .andiu rs rt imm => encodeI .andiu rs rt imm
  | .ori rs rt imm => encodeI .ori rs rt imm
  | .oriu rs rt imm => encodeI .oriu rs rt imm
  | .xori rs rt imm => encodeI .xori rs rt imm
  | .xoriu rs rt imm => encodeI .xoriu rs rt imm
  | .slti rs rt imm => encodeI .slti rs rt imm
  | .sltiu rs rt imm => encodeI .sltiu rs rt imm
  | .slli rs rt imm => encodeI .slli rs rt imm
  | .srli rs rt imm => encodeI .srli rs rt imm
  | .srai rs rt imm => encodeI .srai rs rt imm
  | .sllwi rs rt imm => encodeI .sllwi rs rt imm
  | .srlwi rs rt imm => encodeI .srlwi rs rt imm
  | .srawi rs rt imm => encodeI .srawi rs rt imm
  | .lb rs rt imm => encodeI .lb rs rt imm
  | .lbu rs rt imm => encodeI .lbu rs rt imm
  | .lh rs rt imm => encodeI .lh rs rt imm
  | .lhu rs rt imm => encodeI .lhu rs rt imm
  | .lw rs rt imm => encodeI .lw rs rt imm
  | .lwu rs rt imm => encodeI .lwu rs rt imm
  | .ld rs rt imm => encodeI .ld rs rt imm
  | .sb rs rt imm => encodeI .sb rs rt imm
  | .sh rs rt imm => encodeI .sh rs rt imm
  | .sw rs rt imm => encodeI .sw rs rt imm
  | .sd rs rt imm => encodeI .sd rs rt imm
  | .vld rs rt imm => encodeI .vld rs rt imm
  | .vst rs rt imm => encodeI .vst rs rt imm
  | .beq rs rt imm => encodeI .beq rs rt imm
  | .bne rs rt imm => encodeI .bne rs rt imm
  | .blt rs rt imm => encodeI .blt rs rt imm
  | .bge rs rt imm => encodeI .bge rs rt imm
  | .bltu rs rt imm => encodeI .bltu rs rt imm
  | .bgeu rs rt imm => encodeI .bgeu rs rt imm
  | .li0 rd imm => encodeEI .li0 rd imm
  | .li1 rd imm => encodeEI .li1 rd imm
  | .li2 rd imm => encodeEI .li2 rd imm
  | .li3 rd imm => encodeEI .li3 rd imm

/-- The mnemonic of an instruction. -/
def Instr.mnemonic : Instr → Mnemonic
  | .nop _ => .nop
  | .syscall _ => .syscall
  | .j _ => .j
  | .jal _ => .jal
  | .add _ _ _ => .add
  | .sub _ _ _ => .sub
  | .addw _ _ _ => .addw
  | .subw _ _ _ => .subw
  | .mult _ _ _ => .mult
  | .multu _ _ _ => .multu
  | .multw _ _ _ => .multw
  | .multuw _ _ _ => .multuw
  | .div _ _ _ => .div
  | .divu _ _ _ => .divu
  | .divw _ _ _ => .divw
  | .divuw _ _ _ => .divuw
  | .mfhi _ _ _ => .mfhi
  | .mflo _ _ _ => .mflo
  | .mthi _ _ _ => .mthi
  | .mtlo _ _ _ => .mtlo
  | .and _ _ _ => .and
  | .or _ _ _ => .or
  | .xor _ _ _ => .xor
  | .nor _ _ _ => .nor
  | .sll _ _ _ => .sll
  | .srl _ _ _ => .srl
  | .sra _ _ _ => .sra
  | .sllw _ _ _ => .sllw
  | .srlw _ _ _ => .srlw
  | .sraw _ _ _ => .sraw
  | .slt _ _ _ => .slt
  | .sltu _ _ _ => .sltu
  | .jr _ _ _ => .jr
  | .jalr _ _ _ => .jalr
  | .lbx _ _ _ => .lbx
  | .lbux _ _ _ => .lbux
  | .lhx _ _ _ => .lhx
  | .lhux _ _ _ => .lhux
  | .lwx _ _ _ => .lwx
  | .lwux _ _ _ => .lwux
  | .ldx _ _ _ => .ldx
  | .sbx _ _ _ => .sbx
  | .shx _ _ _ => .shx
  | .swx _ _ _ => .swx
  | .sdx _ _ _ => .sdx
  | .vaddi32 _ _ _ => .vaddi32
  | .vaddi64 _ _ _ => .vaddi64
  | .vaddf32 _ _ _ => .vaddf32
  | .vaddf64 _ _ _ => .vaddf64
  | .vsubi32 _ _ _ => .vsubi32
  | .vsubi64 _ _ _ => .vsubi64
  | .vsubf32 _ _ _ => .vsubf32
  | .vsubf64 _ _ _ => .vsubf64
  | .vmuli32 _ _ _ => .vmuli32
  | .vmuli64 _ _ _ => .vmuli64
  | .vmulf32 _ _ _ => .vmulf32
  | .vmulf64 _ _ _ => .vmulf64
  | .vdivi32 _ _ _ => .vdivi32
  | .vdivi64 _ _ _ => .vdivi64
  | .vdivf32 _ _ _ => .vdivf32
  | .vdivf64 _ _ _ => .vdivf64
  | .vand _ _ _ => .vand
  | .vor _ _ _ => .vor
  | .vxor _ _ _ => .vxor
  | .vnor _ _ _ => .vnor
  | .vsll32 _ _ _ => .vsll32
  | .vsll64 _ _ _ => .vsll64
  | .vsrl32 _ _ _ => .vsrl32
  | .vsrl64 _ _ _ => .vsrl64
  | .vsra32 _ _ _ => .vsra32
  | .vsra64 _ _ _ => .vsra64
  | .vsllv32 _ _ _ => .vsllv32
  | .vsllv64 _ _ _ => .vsllv64
  | .vsrlv32 _ _ _ => .vsrlv32
  | .vsrlv64 _ _ _ => .vsrlv64
  | .vsrav32 _ _ _ => .vsrav32
  | .vsrav64 _ _ _ => .vsrav64
  | .vseqi32 _ _ _ => .vseqi32
  | .vseqi64 _ _ _ => .vseqi64
  | .vseqf32 _ _ _ => .vseqf32
  | .vseqf64 _ _ _ => .vseqf64
  | .vslti32 _ _ _ => .vslti32
  | .vslti64 _ _ _ => .vslti64
  | .vsltf32 _ _ _ => .vsltf32
  | .vsltf64 _ _ _ => .vsltf64
  | .vcvti32f32 _ _ _ => .vcvti32f32
  | .vcvti64f64 _ _ _ => .vcvti64f64
  | .vcvtf32i32 _ _ _ => .vcvtf32i32
  | .vcvtf64i64 _ _ _ => .vcvtf64i64
  | .vsumi32 _ _ _ => .vsumi32
  | .vsumi64 _ _ _ => .vsumi64
  | .vsumf32 _ _ _ => .vsumf32
  | .vsumf64 _ _ _ => .vsumf64
  | .vmsb32 _ _ _ => .vmsb32
  | .vmsb64 _ _ _ => .vmsb64
  | .vlsb32 _ _ _ => .vlsb32
  | .vlsb64 _ _ _ => .vlsb64
  | .vshuf32 _ _ _ => .vshuf32
  | .vshuf64 _ _ _ => .vshuf64
  | .addi _ _ _ => .addi
  | .addiu _ _ _ => .addiu
  | .addwi _ _ _ => .addwi
  | .addwiu _ _ _ => .addwiu
  | .andi _ _ _ => .andi
  | .andiu _ _ _ => .andiu
  | .ori _ _ _ => .ori
  | .oriu _ _ _ => .oriu
  | .xori _ _ _ => .xori
  | .xoriu _ _ _ => .xoriu
  | .slti _ _ _ => .slti
  | .sltiu _ _ _ => .sltiu
  | .slli _ _ _ => .slli
  | .srli _ _ _ => .srli
  | .srai _ _ _ => .srai
  | .sllwi _ _ _ => .sllwi
  | .srlwi _ _ _ => .srlwi
  | .srawi _ _ _ => .srawi
  | .lb _ _ _ => .lb
  | .lbu _ _ _ => .lbu
  | .lh _ _ _ => .lh
  | .lhu _ _ _ => .lhu
  | .lw _ _ _ => .lw
  | .lwu _ _ _ => .lwu
  | .ld _ _ _ => .ld
  | .sb _ _ _ => .sb
  | .sh _ _ _ => .sh
  | .sw _ _ _ => .sw
  | .sd _ _ _ => .sd
  | .vld _ _ _ => .vld
  | .vst _ _ _ => .vst
  | .beq _ _ _ => .beq
  | .bne _ _ _ => .bne
  | .blt _ _ _ => .blt
  | .bge _ _ _ => .bge
  | .bltu _ _ _ => .bltu
  | .bgeu _ _ _ => .bgeu
  | .li0 _ _ => .li0
  | .li1 _ _ => .li1
  | .li2 _ _ => .li2
  | .li3 _ _ => .li3

/-- Byte `j` of a word, `j = 0` the least significant (20/R69). -/
def wordByte (w : InstrWord) (j : Nat) : Byte := w.extractLsb' (8 * j) 8

/-- The four bytes of a word as they lie in memory, lowest address first (20/R69, R72). -/
def bytesOfWord (w : InstrWord) : List Byte := [wordByte w 0, wordByte w 1, wordByte w 2, wordByte w 3]

/-- The word of the opcode table's number `w` of `nbits` bits: every bit above them is 0. -/
def tableWord (nbits w : Nat) : InstrWord := BitVec.ofNat 32 (w % 2 ^ nbits)

/-- What the decoder reads from an instruction whose bits are `w`, numbered as the opcode table numbers
them: its bytes are laid out as memory holds them and handed to the decoder. -/
def decodeTableWord (nbits w : Nat) : Option Instr :=
  match decodeBytes (bytesOfWord (tableWord nbits w)) with
  | .ok (i, _) => some i
  | .error _ => none

end Sys2Proof
end

