-- ==== Sys2Proof/Machine/Memory.lean ====
section
/-! DEFINITION. Memory (20_memory.md): the bytes of all segments as one canonical sparse list, the
segment table with its checks, and the executable a reset creates both from (70/R441). -/

namespace Sys2Proof.Machine

/-! ### Bytes -/

/-- The bytes that differ from `MEM_INIT`, by strictly rising address. One list serves every segment,
since segments share one address space and never overlap (20/R60, R61). -/
abbrev Memory := List Host.Cell

/-- What an unlisted byte reads as (20/R75, `MEM_INIT`; DESIGN CHOICE of the spec, D27, Log 10; unsafe). -/
def Memory.unlisted : Byte := config.memInit

/-- The canonical form: addresses strictly rise and no entry equals what an unlisted byte reads as. -/
abbrev Memory.wf (m : Memory) : Prop :=
  m.Pairwise (fun c d => c.1 < d.1) ∧ ∀ c ∈ m, c.2 ≠ Memory.unlisted

/-- The byte at an address. -/
def Memory.read : Memory → Nat → Byte
  | [], _ => Memory.unlisted
  | c :: rest, a => if c.1 = a then c.2 else Memory.read rest a

/-- An entry for the byte, unless it is what an unlisted byte reads as. -/
def Memory.entry (a : Nat) (b : Byte) (rest : Memory) : Memory :=
  if b = Memory.unlisted then rest else (a, b) :: rest

/-- Set one byte, keeping the canonical form. -/
def Memory.write : Memory → Nat → Byte → Memory
  | [], a, b => Memory.entry a b []
  | c :: rest, a, b =>
    if a < c.1 then Memory.entry a b (c :: rest)
    else if a = c.1 then Memory.entry a b rest
    else c :: Memory.write rest a b

/-- The `n` bytes from address `a` up, lowest address first. -/
def Memory.readBytes (m : Memory) (a : Nat) : Nat → List Byte
  | 0 => []
  | n + 1 => m.read a :: Memory.readBytes m (a + 1) n

/-- Set the bytes from address `a` up, lowest address first. -/
def Memory.writeBytes (m : Memory) (a : Nat) : List Byte → Memory
  | [] => m
  | b :: bs => Memory.writeBytes (m.write a b) (a + 1) bs

/-- Make the bytes at addresses `lo` to `hi - 1` read as unlisted ones. -/
def Memory.clear (m : Memory) (lo hi : Nat) : Memory :=
  m.filter fun c => decide (c.1 < lo) || decide (hi ≤ c.1)

/-- The number whose bytes these are, least significant first (20/R69). -/
def littleEndian : List Byte → Nat
  | [] => 0
  | b :: bs => b.toNat + 256 * littleEndian bs

/-- The bytes of an `8n`-bit value, least significant first (20/R69, R71). -/
def bytesOf (n : Nat) (v : BitVec (8 * n)) : List Byte :=
  (List.range n).map fun j => v.extractLsb' (8 * j) 8

/-- The `n`-byte value at an address (20/R69, R70), without the checks. -/
def Memory.load (m : Memory) (a n : Nat) : BitVec (8 * n) :=
  BitVec.ofNat (8 * n) (littleEndian (m.readBytes a n))

/-- Store an `8n`-bit value at an address (20/R69, R71), without the checks. -/
def Memory.store (m : Memory) (a n : Nat) (v : BitVec (8 * n)) : Memory :=
  m.writeBytes a (bytesOf n v)

/-! ### Segments -/

/-- The kinds of access (20/R68). -/
inductive AccessKind where
  | read | write | fetch
  deriving DecidableEq, Repr

/-- The three checks a segmentation fault can come from (20/R68). -/
inductive SegFaultKind where
  | unmapped | permission | bounds
  deriving DecidableEq, Repr

/-- A segment (20/R61): the bytes at `min` to `min + size - 1`, and its flags. `maxAddress` is
`min + size - 1`; a segment of size 0 is the spec's empty one (Log 11). -/
structure Segment where
  min : Nat
  size : Nat
  r : Bool
  w : Bool
  x : Bool
  deriving DecidableEq, Repr

/-- The first address above the segment. -/
def Segment.limit (g : Segment) : Nat := g.min + g.size

/-- The segment holds the byte (20/R61). That an empty one holds none is asked first, so that a place
nobody knows (the empty heap's) is never asked for. -/
def Segment.contains (g : Segment) (a : Nat) : Bool :=
  decide (0 < g.size) && (decide (g.min ≤ a) && decide (a < g.limit))

/-- The flag an access needs (20/R68). -/
def Segment.allows (g : Segment) : AccessKind → Bool
  | .read => g.r
  | .write => g.w
  | .fetch => g.x

/-- All bytes of the access lie in the segment and none is past 2^64 (20/R68, D28). -/
def Segment.covers (g : Segment) (a n : Nat) : Bool :=
  decide (g.min ≤ a) && (decide (a + n ≤ g.limit) && decide (a + n ≤ 2 ^ 64))

/-- The two segments share a byte (20/R61, 46/R373). -/
def Segment.overlaps (g h : Segment) : Bool :=
  decide (0 < g.size) && (decide (0 < h.size) && (decide (g.min < h.limit) && decide (h.min < g.limit)))

/-- The six segments of the loaded machine (20/R62). -/
structure SegmentMap where
  text : Segment
  data : Segment
  ktext : Segment
  kdata : Segment
  stack : Segment
  heap : Segment
  deriving DecidableEq, Repr

/-- The segments in the order the lookup scans them. -/
def SegmentMap.all (g : SegmentMap) : List Segment :=
  [g.text, g.data, g.ktext, g.kdata, g.stack, g.heap]

/-- The segment of a byte (20/R67). -/
def SegmentMap.lookup (g : SegmentMap) (a : Nat) : Option Segment :=
  g.all.find? (·.contains a)

/-- The checks of an access of `n` bytes, in the spec's order: lookup, permission, bounds (20/R67, R68).
The answer is the first check that fails. -/
def SegmentMap.check (g : SegmentMap) (k : AccessKind) (a n : Nat) : Option SegFaultKind :=
  match g.lookup a with
  | none => some .unmapped
  | some seg =>
    if seg.allows k then
      if seg.covers a n then none else some .bounds
    else some .permission

/-- No two of the segments share a byte (20/R61). -/
def SegmentMap.disjoint (g : SegmentMap) : Bool :=
  decide (g.all.Pairwise fun a b => a.overlaps b = false)

/-! ### The executable and what a reset makes of it -/

/-- One segment of the executable: its file image and its in-memory size (20/R62, R75). -/
structure ImageSegment where
  bytes : List Byte
  memSize : Nat
  deriving DecidableEq, Repr

/-- What the CPU sees of an executable (70/R445): the entry address and four segments. Kernel text may
keep an address of its own (20/R62). -/
structure Executable where
  entry : Word
  ktextBase : Word
  text : ImageSegment
  data : ImageSegment
  ktext : ImageSegment
  kdata : ImageSegment
  deriving DecidableEq, Repr

/-- The executable with four empty segments (70/R445: any may be empty), its entry at `TEXT_BASE`
(DESIGN CHOICE, Log 1; unsafe). -/
def Executable.empty : Executable where
  entry := config.textBase
  ktextBase := config.ktextBase
  text := ⟨[], 0⟩
  data := ⟨[], 0⟩
  ktext := ⟨[], 0⟩
  kdata := ⟨[], 0⟩

/-- A segment of the executable at its base, with its in-memory size (20/R62). -/
def loadedSegment (base : Word) (flags : SegmentFlags) (i : ImageSegment) : Segment :=
  ⟨base.toNat, i.memSize, flags.r, flags.w, flags.x⟩

/-- The stack segment: the caller's size, ending at `STACK_END` (20/R62, R65). A size past `STACK_END` is cut
(Log 1). -/
def stackSegment (size : Nat) : Segment :=
  ⟨config.stackEnd.toNat - size, min size config.stackEnd.toNat, config.stackFlags.r, config.stackFlags.w,
    config.stackFlags.x⟩

/-- The first address above text and data: `top + 1` of 20/R66. -/
def Executable.top (i : Executable) : Nat :=
  max (loadedSegment config.textBase config.textFlags i.text).limit
    (loadedSegment config.dataBase config.dataFlags i.data).limit

/-- `HEAP_BASE` (20/R66). The draw is reduced so that every draw keeps the base below the stack and
every such base has a draw (Log 3; safe). -/
def heapBase (i : Executable) (stackSize gap : Nat) : Nat :=
  i.top + gap % ((stackSegment stackSize).min - i.top)

/-- The six segments at reset (20/R62, 70/R441). -/
def segmentsAtReset (i : Executable) (stackSize gap : Nat) : SegmentMap where
  text := loadedSegment config.textBase config.textFlags i.text
  data := loadedSegment config.dataBase config.dataFlags i.data
  ktext := loadedSegment i.ktextBase config.ktextFlags i.ktext
  kdata := loadedSegment config.kdataBase config.kdataFlags i.kdata
  stack := stackSegment stackSize
  heap := ⟨heapBase i stackSize gap, 0, config.heapFlags.r, config.heapFlags.w, config.heapFlags.x⟩

/-- Lay a segment's file image into memory; an image longer than the in-memory size is cut (Log 1). -/
def placeImage (m : Memory) (base : Word) (i : ImageSegment) : Memory :=
  m.writeBytes base.toNat (i.bytes.take i.memSize)

/-- The bytes at reset (20/R75, 70/R441). -/
def memoryAtReset (i : Executable) : Memory :=
  placeImage (placeImage (placeImage (placeImage [] config.textBase i.text) config.dataBase i.data)
    i.ktextBase i.ktext) config.kdataBase i.kdata

end Sys2Proof.Machine
end

