-- ==== Sys2Proof/Machine/State.lean ====
section
/-! DEFINITION. The state of the machine (10_state.md), its fatal conditions (60/R414), and its reset
values (10/R39, 70/R440). -/

namespace Sys2Proof.Machine

/-- Why the machine stops without a next state. Every fatal condition of the spec is a next state
(`OpState.faulted`, Log 4); this type has the one case to which the spec gives no end. -/
inductive Fault where
  /-- Raised by `syscall` print_string and open when the scan for the end of a string (46/R364) has read
  2^64 bytes, every address of the space, and found no zero byte: the scan of the spec does not end.
  Safe: the machine stops where the hardware does not go on (Log 12). -/
  | endlessString
  deriving DecidableEq, Repr

/-- Why an instruction is given no meaning. -/
inductive Refusal where
  /-- Raised by an arm of `exec` whose instruction has no meaning yet; safe. No arm raises it. -/
  | notModelled (mnemonic : String)
  deriving DecidableEq, Repr

/-- The fatal conditions with what they record for the host (60/R414). -/
inductive Condition where
  /-- a failed check of an access: the check, the first address, the kind of access (60/R415) -/
  | segFault (kind : SegFaultKind) (addr : Word) (access : AccessKind)
  /-- the fetched word is no instruction (60/R416) -/
  | decodeError (w : InstrWord)
  /-- the service number is none (60/R417) -/
  | badSyscall (n : Word)
  /-- an integer division by zero or past the range (60/R418) -/
  | arithFault (w : InstrWord)
  /-- a conversion with rounding selector 3 (60/R419) -/
  | cvtModeFault (w : InstrWord)
  deriving DecidableEq, Repr

/-- The operational state (10/R33). -/
inductive OpState where
  | ready
  | halted
  | faulted (c : Condition)
  deriving DecidableEq, Repr

/-- The kernel register bank, inert (10/R31, 60/R431). -/
structure KernelBank where
  epc : Word
  ie : Word
  ip : Word
  cause : Word
  time : Word
  timeCmp : Word
  deriving DecidableEq, Repr

/-- The descriptor table: number and access mode, by strictly rising number (10/R37). What file a
descriptor names is the host's (10/R38, Log 29). -/
abbrev FdTable := List (Nat × FdAccess)

/-- The whole state of the machine (10_state.md), with the host's trace (46/R363) and three fields that
are the model's own. -/
structure State where
  /-- the general registers; slot 0 stays 0 and is never read (10/R20, R21) -/
  x : Vector Word 32
  /-- the program counter (10/R24) -/
  pc : Word
  /-- `hi` and `lo` (10/R29) -/
  hi : Word
  lo : Word
  /-- the vector registers (10/R27, R28) -/
  v : Vector VWord 32
  /-- the kernel register bank (10/R31) -/
  kernel : KernelBank
  /-- Ready, Halted or Faulted (10/R33) -/
  op : OpState
  /-- meaningful only in Halted (10/R33) -/
  exitCode : Word
  /-- the segment table; the heap break is the heap's upper bound (10/R35, R36) -/
  segments : SegmentMap
  /-- the bytes of the segments (10/R35) -/
  mem : Memory
  /-- the open descriptors (10/R37) -/
  fds : FdTable
  /-- the events the host has been shown, oldest first (46/R363) -/
  trace : List HostEvent
  /-- the model's own: the host's answers lined up for the next questions (46/R363, Log 5) -/
  hostInput : List HostAnswer
  /-- the model's own: how many questions the host has been asked (Log 5) -/
  hostAsked : Nat
  /-- the model's own: how many free values have been drawn (Log 7, Log 8) -/
  freeDraws : Nat
  deriving DecidableEq, Repr

/-- The general registers at reset (10/R23, 70/R440, R442). -/
def registersAtReset : Vector Word 32 :=
  (((Vector.replicate 32 0).set config.gpReg.toNat config.gpReset config.gpReg.isLt).set
    config.spReg.toNat config.spReset config.spReg.isLt).set config.fpReg.toNat config.fpReset config.fpReg.isLt

/-- The reserved descriptors (10/R37, 46 section 6). -/
def fdsAtReset : FdTable := [(0, .readOnly), (1, .writeOnly), (2, .writeOnly)]

/-- The machine after the load of an executable, which is the first `Reset` (10/R39, 70/R440): what the
loader supplies is the executable, the size of the stack, the heap gap and the input oracle (70/R445), a stream of
answers; past its end the parameter `HOST` answers, so that no run is cut short (Log 5). -/
def State.load (i : Executable) (stackSize gap : Nat) (oracle : List HostAnswer) : State where
  x := registersAtReset
  pc := i.entry
  hi := 0
  lo := 0
  v := Vector.replicate 32 0
  kernel := ⟨0, 0, 0, 0, 0, 0⟩
  op := .ready
  exitCode := 0
  segments := segmentsAtReset i stackSize gap
  mem := memoryAtReset i
  fds := fdsAtReset
  trace := []
  hostInput := oracle
  hostAsked := 0
  freeDraws := 0

/-- The machine right after reset, with no program placed: the load of the empty executable with the
default stack size, at the host's draw of the heap gap, with every answer left to the host (Log 1, Log 3, Log 5). -/
def State.reset : State := State.load Executable.empty config.stackSize config.heapGap []

end Sys2Proof.Machine
end

