-- ==== Sys2Proof/Machine/Ops.lean ====
section
/-! DEFINITION. The named operations over the state: registers (10_state.md), checked memory accesses
(20_memory.md), the fatal condition (60/R411) and `Reset` (70/R440), and the exchange with the host
(46/R363). -/

namespace Sys2Proof.Machine

/-- What one instruction ends in. -/
abbrev Result := Host.Outcome State Fault Refusal

/-! ### Registers -/

/-- `x[i]`: register 0 reads as 0 (10/R21). -/
def State.readX (s : State) (i : RegNum) : Word :=
  if i = 0#5 then 0 else s.x[i.toNat]'i.isLt

/-- `x[i] <- w`: discarded for register 0 (10/R21). -/
def State.writeX (s : State) (i : RegNum) (w : Word) : State :=
  { s with x := if i = 0#5 then s.x else s.x.set i.toNat w i.isLt }

/-- `v[i]`: every vector register is ordinary (10/R28). -/
def State.readV (s : State) (i : RegNum) : VWord := s.v[i.toNat]'i.isLt

/-- `v[i] <- w`. -/
def State.writeV (s : State) (i : RegNum) (w : VWord) : State :=
  { s with v := s.v.set i.toNat w i.isLt }

/-- `pc <- a`. -/
def State.setPc (s : State) (a : Word) : State := { s with pc := a }

/-- `hi <- h; lo <- l`, both from values computed before (70/R451). -/
def State.setHiLo (s : State) (h l : Word) : State := { s with hi := h, lo := l }

/-! ### Fatal conditions and Reset

There is no trap entry and no return from one (60/R422, R423): a fatal condition is the one exception of
this machine, and `Reset` the one way out of it. -/

/-- `raise C` (60/R411): what the step did before stands, the operational state becomes `Faulted(C)`, and
nothing else changes: no register records it, `pc` is not redirected. -/
def State.raise (s : State) (c : Condition) : State := { s with op := .faulted c }

/-- An exit service: the operational state becomes Halted with this code (46/R374, R381). -/
def State.halt (s : State) (code : Word) : State := { s with op := .halted, exitCode := code }

/-- `Reset`, an action of the host between steps (70/R440): everything is as after the load of the executable with
the oracle the host supplies (70/R445), from any state; the trace stays (70/R440), and so do the model's own counters
of questions and draws (Log 25). -/
def hostReset (i : Executable) (stackSize gap : Nat) (oracle : List HostAnswer) (s : State) : State :=
  { State.load i stackSize gap oracle with
    trace := s.trace, hostAsked := s.hostAsked, freeDraws := s.freeDraws }

/-! ### Checked memory accesses (20/R68, R70 to R72) -/

/-- The condition an access raises, if a check fails (20/R68, 60/R415). -/
def State.accessFault (s : State) (k : AccessKind) (a : Word) (n : Nat) : Option Condition :=
  (s.segments.check k a.toNat n).map fun kind => .segFault kind a k

/-- The byte at an address, without the checks: what a debugger sees. -/
def State.byteAt (s : State) (a : Nat) : Byte := s.mem.read a

/-- `MemRead(a, n)` (20/R70). -/
def State.memRead (s : State) (a : Word) (n : Nat) : Except Condition (BitVec (8 * n)) :=
  match s.accessFault .read a n with
  | some c => .error c
  | none => .ok (s.mem.load a.toNat n)

/-- `MemWrite(a, n, w)` (20/R71): all checks come before the first byte. -/
def State.memWrite (s : State) (a : Word) (n : Nat) (w : BitVec (8 * n)) : Except Condition State :=
  match s.accessFault .write a n with
  | some c => .error c
  | none => .ok { s with mem := s.mem.store a.toNat n w }

/-- `MemFetch(a)` (20/R72). -/
def State.memFetch (s : State) (a : Word) : Except Condition InstrWord :=
  match s.accessFault .fetch a 4 with
  | some c => .error c
  | none => .ok (s.mem.load a.toNat 4)

/-! ### Byte sequences of a syscall service (46/R364)

Each byte is one access; its address is the buffer's plus its index modulo 2^64 (20/R76, DEDUCED, Log 15;
safe). -/

/-- Read `n` bytes at ascending addresses; the first failed check ends the sequence. -/
def State.readBuffer (s : State) (a : Word) : Nat → Except Condition (List Byte)
  | 0 => .ok []
  | n + 1 =>
    match s.memRead a 1 with
    | .error c => .error c
    | .ok b =>
      match State.readBuffer s (a + 1#64) n with
      | .error c => .error c
      | .ok bs => .ok (b :: bs)

/-- Write bytes at ascending addresses. The first failed check raises its condition in the state that
the bytes before it left (46/R364, 60/R413): that state is the error. -/
def State.writeBuffer (s : State) (a : Word) : List Byte → Except State State
  | [] => .ok s
  | b :: bs =>
    match s.memWrite a 1 b with
    | .error c => .error (s.raise c)
    | .ok s' => State.writeBuffer s' (a + 1#64) bs

/-- What the scan of a NUL-terminated string ends in (46/R364). -/
inductive Scan where
  /-- the bytes before the first zero byte -/
  | found (bytes : List Byte)
  /-- a byte before any zero byte fails its checks or lies in another segment -/
  | stopped (c : Condition)
  /-- no zero byte and no failed check in all the bytes asked for -/
  | endless
  deriving DecidableEq, Repr

/-- One more byte before what the rest of the scan found. -/
def Scan.push (b : Byte) : Scan → Scan
  | .found bs => .found (b :: bs)
  | .stopped c => .stopped c
  | .endless => .endless

/-- A byte of the scan of a string that begins at `start` (46/R364): read through its checks, and only in the segment
the string begins in. A scan that leaves the segment faults, where the next segment is readable too; the kind is the
rule's Unmapped, since Permission is for a segment that is not readable (DEDUCED, Log 30; unsafe). -/
def State.scanByte (s : State) (start a : Word) : Except Condition Byte :=
  match s.memRead a 1 with
  | .error c => .error c
  | .ok b =>
    if s.segments.lookup a.toNat = s.segments.lookup start.toNat then .ok b
    else .error (.segFault .unmapped a .read)

/-- Scan at most `fuel` bytes from `a` on for the first zero byte, in a string that begins at `start` (46/R364). -/
def State.scanFrom (s : State) (start a : Word) : Nat → Scan
  | 0 => .endless
  | fuel + 1 =>
    match s.scanByte start a with
    | .error c => .stopped c
    | .ok b => if b = 0#8 then .found [] else Scan.push b (State.scanFrom s start (a + 1#64) fuel)

/-- The NUL-terminated string at an address. 2^64 bytes are all the addresses there are: a scan that finds
no end in them finds none (Log 12). -/
def State.scanString (s : State) (a : Word) : Scan := s.scanFrom a a (2 ^ 64)

/-! ### The host (46/R363) -/

/-- Append an event to the output trace. -/
def State.emit (s : State) (e : HostEvent) : State := { s with trace := s.trace ++ [e] }

/-- The host's next answer: the first one lined up, else what the parameter `HOST` says (Log 5). -/
def State.hostAnswer (s : State) : HostAnswer :=
  match s.hostInput with
  | a :: _ => a
  | [] => config.host s.hostAsked s.trace

/-- The host has been asked one more question, and the answer lined up for it is used up. -/
def State.asked (s : State) : State :=
  { s with hostInput := s.hostInput.tail, hostAsked := s.hostAsked + 1 }

/-! ### Free values -/

/-- Free value number `k` after those already drawn (Log 7, Log 8). -/
def State.freeDraw (s : State) (k : Nat) : BitVec 64 := Config.freeBits (s.freeDraws + k)

/-- `n` free values have been drawn. -/
def State.drew (s : State) (n : Nat) : State := { s with freeDraws := s.freeDraws + n }

/-! ### Heap break (10/R36) -/

/-- `brk`, the heap's upper bound. -/
def State.brk (s : State) : Nat := s.segments.heap.limit

/-- Move the heap break up to `limit`; the new bytes read 0x00 (46/R373). -/
def State.growHeap (s : State) (limit : Nat) : State :=
  { s with
    segments := { s.segments with heap := { s.segments.heap with size := limit - s.segments.heap.min } },
    mem := s.mem.clear s.brk limit }

end Sys2Proof.Machine
end

