-- ==== Sys2Proof/Machine/Clock.lean ====
section
/-! DEFINITION. Steps 1 to 6 of `Clock()` (30/R100): what stands between a state and the instruction it
runs. -/

namespace Sys2Proof.Machine

/-- What the fetch and the decode of a step come to. -/
inductive Fetched where
  /-- no instruction runs: the machine is not Ready, or the fetch or the decode raised -/
  | stays (s : State)
  /-- the instruction, and the state with `pc` advanced that it sees -/
  | runs (i : Instr) (s : State)
  deriving DecidableEq, Repr

/-- Fetch at `pc`, advance `pc` by 4, decode (30/R100, 10/R25). A fetch that fails leaves `pc`, a word that
does not decode leaves it advanced (60/R413). Only Ready has a step (10/R34). -/
def State.fetchDecode (s : State) : Fetched :=
  match s.op with
  | .halted => .stays s
  | .faulted _ => .stays s
  | .ready =>
    match s.memFetch s.pc with
    | .error c => .stays (s.raise c)
    | .ok w =>
      match decode w with
      | .error _ => .stays ((s.setPc (s.pc + 4#64)).raise (.decodeError w))
      | .ok i => .runs i (s.setPc (s.pc + 4#64))

/-- The segment table with four executable bytes at an address: the text segment is put there where no
executable segment holds them (Log 27). -/
def withExecutable (g : SegmentMap) (a : Nat) : SegmentMap :=
  match g.check .fetch a 4 with
  | none => g
  | some _ => { g with text := ⟨a, 4, true, false, true⟩ }

/-- The word placed where the next step fetches, in a machine that is Ready (Log 27). -/
def placeWord (s : State) (w : InstrWord) : State :=
  { s with
    op := .ready,
    segments := withExecutable s.segments s.pc.toNat,
    mem := s.mem.writeBytes s.pc.toNat (bytesOfWord w) }

end Sys2Proof.Machine
end

