-- ==== Sys2Proof/Machine/Flags.lean ====
section
/-! DEFINITION. The machine has no flags, no condition codes and no predicate registers (10/R30). What
other machines leave in flags this one compares directly: the relations of the branches and of the
compares, and the 0/1 value a compare writes (40/R170, 45/R320). -/

namespace Sys2Proof.Machine

/-- The integer 1 where a relation holds, else 0, at a register's or a lane's width (40/R170, 45/R320). -/
def zeroOne (w : Nat) (holds : Bool) : BitVec w := if holds then 1#w else 0#w

/-- `a s< b` (00/R8). -/
def signedLess {w : Nat} (a b : BitVec w) : Bool := a.slt b

/-- `a u< b` (00/R8). -/
def unsignedLess {w : Nat} (a b : BitVec w) : Bool := a.ult b

end Sys2Proof.Machine
end

