-- ==== Sys2Proof/Machine/Operands.lean ====
section
/-! DEFINITION. Operand forms: 32-bit operands and results (40/R141), immediates (30/R104), shift counts
(40/R142), slices (41/R200), effective addresses (42/R210, R211), transfer targets (43/R251, R252) and
vector lanes (10/R27). -/

namespace Sys2Proof.Machine

/-! ### 32-bit operations (40/R141) -/

/-- The low word of a register. -/
def low32 (a : Word) : BitVec 32 := a.extractLsb' 0 32

/-- A 32-bit result as it is written: sign-extended, for unsigned operations too. -/
def sext32 (a : BitVec 32) : Word := a.signExtend 64

/-! ### Immediates (30/R104, 41/R180) -/

def sextImm (imm : BitVec 15) : Word := imm.signExtend 64
def zextImm (imm : BitVec 15) : Word := imm.setWidth 64
def sextImm32 (imm : BitVec 15) : BitVec 32 := imm.signExtend 32
def zextImm32 (imm : BitVec 15) : BitVec 32 := imm.setWidth 32

/-! ### Shifts (40/R142, 41/R180, 44/R274) -/

/-- The positions a count `c` shifts a `w`-bit value by: `c` modulo the width, or, in the alternative of
`SHIFT_OVER`, `c` with every count from the width up shifting all bits out (Log 16). -/
def shiftCount (w c : Nat) : Nat :=
  match config.shiftOver with
  | .modulo => c % w
  | .saturate => min c w

def shiftLeft {w : Nat} (a : BitVec w) (c : Nat) : BitVec w := a <<< shiftCount w c
def shiftRightLogical {w : Nat} (a : BitVec w) (c : Nat) : BitVec w := a >>> shiftCount w c
def shiftRightArith {w : Nat} (a : BitVec w) (c : Nat) : BitVec w := a.sshiftRight (shiftCount w c)

/-! ### Slices of 16 bits (41/R200) -/

/-- Slice `k` of a word replaced, the other 48 bits kept. -/
def insertSlice (a : Word) (k : Nat) (imm : BitVec 16) : Word :=
  (a &&& ~~~(0xFFFF#64 <<< (16 * k))) ||| (imm.setWidth 64 <<< (16 * k))

/-! ### Addresses -/

/-- Base plus byte offset (42/R210). -/
def offsetAddress (s : State) (rs : RegNum) (imm : BitVec 15) : Word := s.readX rs + sextImm imm

/-- Base plus index times 2^k (42/R211). -/
def scaledAddress (s : State) (rs rt : RegNum) (k : Nat) : Word := s.readX rs + (s.readX rt <<< k)

/-- The target of a taken branch, from the advanced `pc` (43/R251). -/
def branchTarget (pc : Word) (imm : BitVec 15) : Word := pc + (sextImm imm <<< 2)

/-- The target of `j` and `jal`: bits 63 to 27 of the advanced `pc`, the field, two zeros (43/R252). -/
def jumpTarget (pc : Word) (addr : BitVec 25) : Word := pc.extractLsb' 27 37 ++ addr ++ 0#2

/-! ### Vector lanes (10/R27) -/

/-- Lane `k` of the view with `w`-bit lanes: bits `wk + w - 1` to `wk`. -/
def lane (w k : Nat) (a : VWord) : BitVec w := a.extractLsb' (w * k) w

/-- How many lanes of `w` bits a vector register has (44/R270). -/
def laneCount (w : Nat) : Nat := 256 / w

/-- The number whose `w`-bit digits, least significant first, are `f 0` to `f (n - 1)`. -/
def lanesValue {w : Nat} (f : Nat → BitVec w) : Nat → Nat
  | 0 => 0
  | n + 1 => lanesValue f n + (f n).toNat * 2 ^ (w * n)

/-- The vector whose lane `k` is `f k` (44/R270). -/
def ofLanes (w : Nat) (f : Nat → BitVec w) : VWord := BitVec.ofNat 256 (lanesValue f (laneCount w))

/-- Lane-wise, one source (44/R270). -/
def mapLanes (w : Nat) (f : BitVec w → BitVec w) (a : VWord) : VWord := ofLanes w fun k => f (lane w k a)

/-- Lane-wise, two sources (44/R270). -/
def zipLanes (w : Nat) (f : BitVec w → BitVec w → BitVec w) (a b : VWord) : VWord :=
  ofLanes w fun k => f (lane w k a) (lane w k b)

/-- Some lane satisfies the predicate. -/
def anyLane (w : Nat) (p : Nat → Bool) : Bool := (List.range (laneCount w)).any p

/-- The bits `p 0`, `p 1`, ... of the lanes packed into a scalar, lane 0 lowest (45 section 4). -/
def packBits (w : Nat) (p : Nat → Bool) : Word :=
  BitVec.ofNat 64 (lanesValue (fun k => BitVec.ofBool (p k)) (laneCount w))

end Sys2Proof.Machine
end

