-- ==== Sys2Proof/Machine/Control.lean ====
section
/-! DEFINITION. Control transfer (43_control.md). `pc` has been advanced before the meaning runs (00/R10); there is no
delay slot (43/R250) and no check of a target (43/R265). -/

namespace Sys2Proof.Machine

/-- A conditional branch (43/R251): taken, `pc` moves from its advanced value; not taken, it stays. -/
def branchOp (rel : Word → Word → Bool) (rs rt : RegNum) (imm : BitVec 15) (s : State) : State :=
  if rel (s.readX rs) (s.readX rt) then s.setPc (branchTarget s.pc imm) else s

/-- Write the return address, the advanced `pc`, to the link register and go to the target, which was
computed before (43/R253). -/
def linkTo (target : Word) (s : State) : State := (s.writeX config.link s.pc).setPc target

/-! ### Conditional branches -/

/-- `beq` (R254). -/
def execBeq (rs rt : RegNum) (imm : BitVec 15) (s : State) : Result :=
  .next (branchOp (fun a b => a == b) rs rt imm s)

/-- `bne` (R255). -/
def execBne (rs rt : RegNum) (imm : BitVec 15) (s : State) : Result :=
  .next (branchOp (fun a b => a != b) rs rt imm s)

/-- `blt` (R256). -/
def execBlt (rs rt : RegNum) (imm : BitVec 15) (s : State) : Result :=
  .next (branchOp signedLess rs rt imm s)

/-- `bge` (R257). -/
def execBge (rs rt : RegNum) (imm : BitVec 15) (s : State) : Result :=
  .next (branchOp (fun a b => !signedLess a b) rs rt imm s)

/-- `bltu` (R258). -/
def execBltu (rs rt : RegNum) (imm : BitVec 15) (s : State) : Result :=
  .next (branchOp unsignedLess rs rt imm s)

/-- `bgeu` (R259). -/
def execBgeu (rs rt : RegNum) (imm : BitVec 15) (s : State) : Result :=
  .next (branchOp (fun a b => !unsignedLess a b) rs rt imm s)

/-! ### Jumps and calls -/

/-- `j` (R260). -/
def execJ (addr : BitVec 25) (s : State) : Result :=
  .next (s.setPc (jumpTarget s.pc addr))

/-- `jal` (R261). -/
def execJal (addr : BitVec 25) (s : State) : Result :=
  .next (linkTo (jumpTarget s.pc addr) s)

/-- `jr` (R262). -/
def execJr (rs : RegNum) (s : State) : Result :=
  .next (s.setPc (s.readX rs))

/-- `jalr` (R263). -/
def execJalr (rs : RegNum) (s : State) : Result :=
  .next (linkTo (s.readX rs) s)

/-! ### No operation -/

/-- `nop` (R264). -/
def execNop (s : State) : Result :=
  .next s

end Sys2Proof.Machine
end

