-- ==== Sys2Proof/Machine/LoadStore.lean ====
section
/-! DEFINITION. Scalar loads and stores (42_load_store.md). -/

namespace Sys2Proof.Machine

/-- A load of `n` bytes into a general register (42/R212): a failed check raises its condition and writes
no register; a destination of register 0 discards the data after the access. -/
def loadOp (n : Nat) (extend : BitVec (8 * n) → Word) (a : Word) (dst : RegNum) (s : State) : State :=
  match s.memRead a n with
  | .error c => s.raise c
  | .ok m => s.writeX dst (extend m)

/-- A store of the low `n` bytes of a register (42/R213): a failed check raises its condition and
changes no byte. -/
def storeOp (n : Nat) (a : Word) (src : RegNum) (s : State) : State :=
  match s.memWrite a n ((s.readX src).setWidth (8 * n)) with
  | .error c => s.raise c
  | .ok s' => s'

/-- The loaded value sign-extended, or zero-extended, to a register (42/R212). -/
def sextLoad (n : Nat) (m : BitVec (8 * n)) : Word := m.signExtend 64
def zextLoad (n : Nat) (m : BitVec (8 * n)) : Word := m.setWidth 64

/-! ### Loads with immediate offset -/

/-- `lb` (R215). -/
def execLb (rs rt : RegNum) (imm : BitVec 15) (s : State) : Result :=
  .next (loadOp 1 (sextLoad 1) (offsetAddress s rs imm) rt s)

/-- `lbu` (R216). -/
def execLbu (rs rt : RegNum) (imm : BitVec 15) (s : State) : Result :=
  .next (loadOp 1 (zextLoad 1) (offsetAddress s rs imm) rt s)

/-- `lh` (R217). -/
def execLh (rs rt : RegNum) (imm : BitVec 15) (s : State) : Result :=
  .next (loadOp 2 (sextLoad 2) (offsetAddress s rs imm) rt s)

/-- `lhu` (R218). -/
def execLhu (rs rt : RegNum) (imm : BitVec 15) (s : State) : Result :=
  .next (loadOp 2 (zextLoad 2) (offsetAddress s rs imm) rt s)

/-- `lw` (R219). -/
def execLw (rs rt : RegNum) (imm : BitVec 15) (s : State) : Result :=
  .next (loadOp 4 (sextLoad 4) (offsetAddress s rs imm) rt s)

/-- `lwu` (R220). -/
def execLwu (rs rt : RegNum) (imm : BitVec 15) (s : State) : Result :=
  .next (loadOp 4 (zextLoad 4) (offsetAddress s rs imm) rt s)

/-- `ld` (R221). -/
def execLd (rs rt : RegNum) (imm : BitVec 15) (s : State) : Result :=
  .next (loadOp 8 (zextLoad 8) (offsetAddress s rs imm) rt s)

/-! ### Stores with immediate offset -/

/-- `sb` (R222). -/
def execSb (rs rt : RegNum) (imm : BitVec 15) (s : State) : Result :=
  .next (storeOp 1 (offsetAddress s rs imm) rt s)

/-- `sh` (R223). -/
def execSh (rs rt : RegNum) (imm : BitVec 15) (s : State) : Result :=
  .next (storeOp 2 (offsetAddress s rs imm) rt s)

/-- `sw` (R224). -/
def execSw (rs rt : RegNum) (imm : BitVec 15) (s : State) : Result :=
  .next (storeOp 4 (offsetAddress s rs imm) rt s)

/-- `sd` (R225). -/
def execSd (rs rt : RegNum) (imm : BitVec 15) (s : State) : Result :=
  .next (storeOp 8 (offsetAddress s rs imm) rt s)

/-! ### Loads with scaled index -/

/-- `lbx` (R226). -/
def execLbx (rs rt rd : RegNum) (s : State) : Result :=
  .next (loadOp 1 (sextLoad 1) (scaledAddress s rs rt 0) rd s)

/-- `lbux` (R227). -/
def execLbux (rs rt rd : RegNum) (s : State) : Result :=
  .next (loadOp 1 (zextLoad 1) (scaledAddress s rs rt 0) rd s)

/-- `lhx` (R228). -/
def execLhx (rs rt rd : RegNum) (s : State) : Result :=
  .next (loadOp 2 (sextLoad 2) (scaledAddress s rs rt 1) rd s)

/-- `lhux` (R229). -/
def execLhux (rs rt rd : RegNum) (s : State) : Result :=
  .next (loadOp 2 (zextLoad 2) (scaledAddress s rs rt 1) rd s)

/-- `lwx` (R230). -/
def execLwx (rs rt rd : RegNum) (s : State) : Result :=
  .next (loadOp 4 (sextLoad 4) (scaledAddress s rs rt 2) rd s)

/-- `lwux` (R231). -/
def execLwux (rs rt rd : RegNum) (s : State) : Result :=
  .next (loadOp 4 (zextLoad 4) (scaledAddress s rs rt 2) rd s)

/-- `ldx` (R232). -/
def execLdx (rs rt rd : RegNum) (s : State) : Result :=
  .next (loadOp 8 (zextLoad 8) (scaledAddress s rs rt 3) rd s)

/-! ### Stores with scaled index: `rd` is the value source (42/R211) -/

/-- `sbx` (R233). -/
def execSbx (rs rt rd : RegNum) (s : State) : Result :=
  .next (storeOp 1 (scaledAddress s rs rt 0) rd s)

/-- `shx` (R234). -/
def execShx (rs rt rd : RegNum) (s : State) : Result :=
  .next (storeOp 2 (scaledAddress s rs rt 1) rd s)

/-- `swx` (R235). -/
def execSwx (rs rt rd : RegNum) (s : State) : Result :=
  .next (storeOp 4 (scaledAddress s rs rt 2) rd s)

/-- `sdx` (R236). -/
def execSdx (rs rt rd : RegNum) (s : State) : Result :=
  .next (storeOp 8 (scaledAddress s rs rt 3) rd s)

end Sys2Proof.Machine
end

