-- ==== Sys2Proof/Machine/ScalarAlu.lean ====
section
/-! DEFINITION. Scalar register-register arithmetic, logic, shift, compare, multiply and divide (40_scalar_alu.md). -/

namespace Sys2Proof.Machine

/-- A destination written from two sources; sources are read first (40/R140, 70/R451). -/
def regOp (f : Word → Word → Word) (rs rt rd : RegNum) (s : State) : State :=
  s.writeX rd (f (s.readX rs) (s.readX rt))

/-- A 32-bit operation on two sources: low words in, sign-extended result out (40/R141). -/
def wordOp (f : BitVec 32 → BitVec 32 → BitVec 32) (a b : Word) : Word := sext32 (f (low32 a) (low32 b))

/-- A product's high half to `hi`, its low half to `lo` (40/R143). -/
def writeProduct (p : BitVec 128) (s : State) : State := s.setHiLo (p.extractLsb' 64 64) (p.extractLsb' 0 64)

/-- A 64-bit product's halves, each sign-extended on its own (40/R141, R150). -/
def writeProductW (p : BitVec 64) (s : State) : State :=
  s.setHiLo (sext32 (p.extractLsb' 32 32)) (sext32 (p.extractLsb' 0 32))

/-- A signed division has no result: the divisor is 0, or the most negative value is divided by -1
(40/R143, 44/R272). -/
def signedDivFaults {w : Nat} (a b : BitVec w) : Bool := b == 0#w || (a == BitVec.intMin w && b == BitVec.allOnes w)

/-- The signed quotient, truncated toward zero (40/R143). -/
def quotientSigned {w : Nat} (a b : BitVec w) : BitVec w := BitVec.ofInt w (a.toInt.tdiv b.toInt)

/-- The signed remainder, with the dividend's sign (40/R143). -/
def remainderSigned {w : Nat} (a b : BitVec w) : BitVec w :=
  BitVec.ofInt w (a.toInt - a.toInt.tdiv b.toInt * b.toInt)

/-- The unsigned quotient and remainder. -/
def quotientUnsigned {w : Nat} (a b : BitVec w) : BitVec w := BitVec.ofNat w (a.toNat / b.toNat)
def remainderUnsigned {w : Nat} (a b : BitVec w) : BitVec w := BitVec.ofNat w (a.toNat % b.toNat)

/-- The quotient and the remainder of a signed division, `none` where it raises `ArithFault` (40/R143, 44/R272;
`DIV_FAULT`). -/
def divideSigned {w : Nat} (a b : BitVec w) : Option (BitVec w × BitVec w) :=
  if signedDivFaults a b then config.divFault true w a b else some (quotientSigned a b, remainderSigned a b)

/-- The same of an unsigned division. -/
def divideUnsigned {w : Nat} (a b : BitVec w) : Option (BitVec w × BitVec w) :=
  if b == 0#w then config.divFault false w a b else some (quotientUnsigned a b, remainderUnsigned a b)

/-- A divide: `ArithFault` with the instruction's word before anything is written, else the remainder to
`hi` and the quotient to `lo`, at a register's width (40/R143, 60/R418). -/
def divideOp {w : Nat} (i : Instr) (widen : BitVec w → Word) (result : Option (BitVec w × BitVec w)) (s : State) :
    State :=
  match result with
  | none => s.raise (.arithFault (encode i))
  | some (quotient, remainder) => s.setHiLo (widen remainder) (widen quotient)

/-! ### Add and subtract -/

/-- `add` (R144). -/
def execAdd (rs rt rd : RegNum) (s : State) : Result :=
  .next (regOp (fun a b => a + b) rs rt rd s)

/-- `sub` (R145). -/
def execSub (rs rt rd : RegNum) (s : State) : Result :=
  .next (regOp (fun a b => a - b) rs rt rd s)

/-- `addw` (R146). -/
def execAddw (rs rt rd : RegNum) (s : State) : Result :=
  .next (regOp (wordOp fun a b => a + b) rs rt rd s)

/-- `subw` (R147). -/
def execSubw (rs rt rd : RegNum) (s : State) : Result :=
  .next (regOp (wordOp fun a b => a - b) rs rt rd s)

/-! ### Multiply -/

/-- `mult` (R148). -/
def execMult (rs rt : RegNum) (s : State) : Result :=
  .next (writeProduct (BitVec.ofInt 128 ((s.readX rs).toInt * (s.readX rt).toInt)) s)

/-- `multu` (R149). -/
def execMultu (rs rt : RegNum) (s : State) : Result :=
  .next (writeProduct (BitVec.ofNat 128 ((s.readX rs).toNat * (s.readX rt).toNat)) s)

/-- `multw` (R150). -/
def execMultw (rs rt : RegNum) (s : State) : Result :=
  .next (writeProductW (BitVec.ofInt 64 ((low32 (s.readX rs)).toInt * (low32 (s.readX rt)).toInt)) s)

/-- `multuw` (R151). -/
def execMultuw (rs rt : RegNum) (s : State) : Result :=
  .next (writeProductW (BitVec.ofNat 64 ((low32 (s.readX rs)).toNat * (low32 (s.readX rt)).toNat)) s)

/-! ### Divide -/

/-- `div` (R152). -/
def execDiv (rs rt rd : RegNum) (s : State) : Result :=
  .next (divideOp (.div rs rt rd) id (divideSigned (s.readX rs) (s.readX rt)) s)

/-- `divu` (R153). -/
def execDivu (rs rt rd : RegNum) (s : State) : Result :=
  .next (divideOp (.divu rs rt rd) id (divideUnsigned (s.readX rs) (s.readX rt)) s)

/-- `divw` (R154). -/
def execDivw (rs rt rd : RegNum) (s : State) : Result :=
  .next (divideOp (.divw rs rt rd) sext32 (divideSigned (low32 (s.readX rs)) (low32 (s.readX rt))) s)

/-- `divuw` (R155). -/
def execDivuw (rs rt rd : RegNum) (s : State) : Result :=
  .next (divideOp (.divuw rs rt rd) sext32 (divideUnsigned (low32 (s.readX rs)) (low32 (s.readX rt))) s)

/-! ### Hi/Lo moves -/

/-- `mfhi` (R156). -/
def execMfhi (rd : RegNum) (s : State) : Result :=
  .next (s.writeX rd s.hi)

/-- `mflo` (R157). -/
def execMflo (rd : RegNum) (s : State) : Result :=
  .next (s.writeX rd s.lo)

/-- `mthi` (R158). -/
def execMthi (rs : RegNum) (s : State) : Result :=
  .next (s.setHiLo (s.readX rs) s.lo)

/-- `mtlo` (R159). -/
def execMtlo (rs : RegNum) (s : State) : Result :=
  .next (s.setHiLo s.hi (s.readX rs))

/-! ### Bitwise logic -/

/-- `and` (R160). -/
def execAnd (rs rt rd : RegNum) (s : State) : Result :=
  .next (regOp (fun a b => a &&& b) rs rt rd s)

/-- `or` (R161). -/
def execOr (rs rt rd : RegNum) (s : State) : Result :=
  .next (regOp (fun a b => a ||| b) rs rt rd s)

/-- `xor` (R162). -/
def execXor (rs rt rd : RegNum) (s : State) : Result :=
  .next (regOp (fun a b => a ^^^ b) rs rt rd s)

/-- `nor` (R163). -/
def execNor (rs rt rd : RegNum) (s : State) : Result :=
  .next (regOp (fun a b => ~~~(a ||| b)) rs rt rd s)

/-! ### Shifts by a register count; the shift reduces the count to its low bits (40/R142) -/

/-- `sll` (R164). -/
def execSll (rs rt rd : RegNum) (s : State) : Result :=
  .next (regOp (fun a b => shiftLeft a b.toNat) rs rt rd s)

/-- `srl` (R165). -/
def execSrl (rs rt rd : RegNum) (s : State) : Result :=
  .next (regOp (fun a b => shiftRightLogical a b.toNat) rs rt rd s)

/-- `sra` (R166). -/
def execSra (rs rt rd : RegNum) (s : State) : Result :=
  .next (regOp (fun a b => shiftRightArith a b.toNat) rs rt rd s)

/-- `sllw` (R167). -/
def execSllw (rs rt rd : RegNum) (s : State) : Result :=
  .next (regOp (fun a b => sext32 (shiftLeft (low32 a) b.toNat)) rs rt rd s)

/-- `srlw` (R168). -/
def execSrlw (rs rt rd : RegNum) (s : State) : Result :=
  .next (regOp (fun a b => sext32 (shiftRightLogical (low32 a) b.toNat)) rs rt rd s)

/-- `sraw` (R169). -/
def execSraw (rs rt rd : RegNum) (s : State) : Result :=
  .next (regOp (fun a b => sext32 (shiftRightArith (low32 a) b.toNat)) rs rt rd s)

/-! ### Compare -/

/-- `slt` (R170). -/
def execSlt (rs rt rd : RegNum) (s : State) : Result :=
  .next (regOp (fun a b => zeroOne 64 (signedLess a b)) rs rt rd s)

/-- `sltu` (R171). -/
def execSltu (rs rt rd : RegNum) (s : State) : Result :=
  .next (regOp (fun a b => zeroOne 64 (unsignedLess a b)) rs rt rd s)

end Sys2Proof.Machine
end

