-- ==== Sys2Proof/Machine/ScalarImm.lean ====
section
/-! DEFINITION. Scalar immediate instructions and the 16-bit slice loads (41_scalar_imm.md). -/

namespace Sys2Proof.Machine

/-- The destination `rt` written from the source `rs` (41/R181). -/
def immOp (f : Word → Word) (rs rt : RegNum) (s : State) : State := s.writeX rt (f (s.readX rs))

/-- Slice `k` of `rd` replaced (41/R200). -/
def sliceOp (k : Nat) (rd : RegNum) (imm : BitVec 16) (s : State) : State :=
  s.writeX rd (insertSlice (s.readX rd) k imm)

/-! ### Add -/

/-- `addi` (R182). -/
def execAddi (rs rt : RegNum) (imm : BitVec 15) (s : State) : Result :=
  .next (immOp (fun a => a + sextImm imm) rs rt s)

/-- `addiu` (R183). -/
def execAddiu (rs rt : RegNum) (imm : BitVec 15) (s : State) : Result :=
  .next (immOp (fun a => a + zextImm imm) rs rt s)

/-- `addwi` (R184). -/
def execAddwi (rs rt : RegNum) (imm : BitVec 15) (s : State) : Result :=
  .next (immOp (fun a => sext32 (low32 a + sextImm32 imm)) rs rt s)

/-- `addwiu` (R185). -/
def execAddwiu (rs rt : RegNum) (imm : BitVec 15) (s : State) : Result :=
  .next (immOp (fun a => sext32 (low32 a + zextImm32 imm)) rs rt s)

/-! ### Logic -/

/-- `andi` (R186). -/
def execAndi (rs rt : RegNum) (imm : BitVec 15) (s : State) : Result :=
  .next (immOp (fun a => a &&& sextImm imm) rs rt s)

/-- `andiu` (R187). -/
def execAndiu (rs rt : RegNum) (imm : BitVec 15) (s : State) : Result :=
  .next (immOp (fun a => a &&& zextImm imm) rs rt s)

/-- `ori` (R188). -/
def execOri (rs rt : RegNum) (imm : BitVec 15) (s : State) : Result :=
  .next (immOp (fun a => a ||| sextImm imm) rs rt s)

/-- `oriu` (R189). -/
def execOriu (rs rt : RegNum) (imm : BitVec 15) (s : State) : Result :=
  .next (immOp (fun a => a ||| zextImm imm) rs rt s)

/-- `xori` (R190). -/
def execXori (rs rt : RegNum) (imm : BitVec 15) (s : State) : Result :=
  .next (immOp (fun a => a ^^^ sextImm imm) rs rt s)

/-- `xoriu` (R191). -/
def execXoriu (rs rt : RegNum) (imm : BitVec 15) (s : State) : Result :=
  .next (immOp (fun a => a ^^^ zextImm imm) rs rt s)

/-! ### Compare -/

/-- `slti` (R192). -/
def execSlti (rs rt : RegNum) (imm : BitVec 15) (s : State) : Result :=
  .next (immOp (fun a => zeroOne 64 (signedLess a (sextImm imm))) rs rt s)

/-- `sltiu` (R193). -/
def execSltiu (rs rt : RegNum) (imm : BitVec 15) (s : State) : Result :=
  .next (immOp (fun a => zeroOne 64 (unsignedLess a (zextImm imm))) rs rt s)

/-! ### Shift; the shift reduces the immediate to its low bits (41/R180) -/

/-- `slli` (R194). -/
def execSlli (rs rt : RegNum) (imm : BitVec 15) (s : State) : Result :=
  .next (immOp (fun a => shiftLeft a imm.toNat) rs rt s)

/-- `srli` (R195). -/
def execSrli (rs rt : RegNum) (imm : BitVec 15) (s : State) : Result :=
  .next (immOp (fun a => shiftRightLogical a imm.toNat) rs rt s)

/-- `srai` (R196). -/
def execSrai (rs rt : RegNum) (imm : BitVec 15) (s : State) : Result :=
  .next (immOp (fun a => shiftRightArith a imm.toNat) rs rt s)

/-- `sllwi` (R197). -/
def execSllwi (rs rt : RegNum) (imm : BitVec 15) (s : State) : Result :=
  .next (immOp (fun a => sext32 (shiftLeft (low32 a) imm.toNat)) rs rt s)

/-- `srlwi` (R198). -/
def execSrlwi (rs rt : RegNum) (imm : BitVec 15) (s : State) : Result :=
  .next (immOp (fun a => sext32 (shiftRightLogical (low32 a) imm.toNat)) rs rt s)

/-- `srawi` (R199). -/
def execSrawi (rs rt : RegNum) (imm : BitVec 15) (s : State) : Result :=
  .next (immOp (fun a => sext32 (shiftRightArith (low32 a) imm.toNat)) rs rt s)

/-! ### 16-bit slice loads -/

/-- `li.0` (R201). -/
def execLi0 (rd : RegNum) (imm : BitVec 16) (s : State) : Result :=
  .next (sliceOp 0 rd imm s)

/-- `li.1` (R202). -/
def execLi1 (rd : RegNum) (imm : BitVec 16) (s : State) : Result :=
  .next (sliceOp 1 rd imm s)

/-- `li.2` (R203). -/
def execLi2 (rd : RegNum) (imm : BitVec 16) (s : State) : Result :=
  .next (sliceOp 2 rd imm s)

/-- `li.3` (R204). -/
def execLi3 (rd : RegNum) (imm : BitVec 16) (s : State) : Result :=
  .next (sliceOp 3 rd imm s)

end Sys2Proof.Machine
end

