-- ==== Sys2Proof/Machine/Syscall.lean ====
section
/-! DEFINITION. The syscall dispatcher (46_syscall.md): the instruction, its 17 services, and the
descriptor table. A service is one operation over the state in the middle of the step. -/

namespace Sys2Proof.Machine

/-! ### Registers of the convention (46/R361) -/

/-- Argument `a0` to `a5`. -/
def State.arg (s : State) (k : Fin 6) : Word := s.readX (config.argReg k)

/-- A service's result replaces the service number. -/
def State.answer (s : State) (w : Word) : State := s.writeX config.serviceReg w

/-- The failure return of the file and heap services (00/R12, 46 section 6). -/
def allOnes : Word := BitVec.allOnes 64

/-! ### Console output -/

/-- print_int: the 64-bit value as a signed integer (46/R365). -/
def servicePrintInt (s : State) : State := s.emit (.printInt (s.arg 0).toInt)

/-- print_float: the low 32 bits (46/R366). -/
def servicePrintFloat (s : State) : State := s.emit (.printFloat ((s.arg 0).extractLsb' 0 32))

/-- print_double (46/R367). -/
def servicePrintDouble (s : State) : State := s.emit (.printDouble (s.arg 0))

/-- print_char: the whole register (46/R375). -/
def servicePrintChar (s : State) : State := s.emit (.printChar (s.arg 0))

/-- What is done with a NUL-terminated string of memory (46/R364): a failed check raises its condition
before anything else, a scan without an end is the model's one fault (Log 12). -/
def withString (s : State) (a : Word) (use : List Byte → State) : Result :=
  match s.scanString a with
  | .found bytes => .next (use bytes)
  | .stopped c => .next (s.raise c)
  | .endless => .fault .endlessString

/-- print_string (46/R368). -/
def servicePrintString (s : State) : Result := withString s (s.arg 0) fun bytes => s.emit (.printString bytes)

/-! ### Console input -/

/-- read_int (46/R369). -/
def serviceReadInt (s : State) : State := s.asked.answer s.hostAnswer.value

/-- read_float: the binary32 pattern, zero-extended (46/R370). -/
def serviceReadFloat (s : State) : State :=
  s.asked.answer ((s.hostAnswer.value.extractLsb' 0 32).setWidth 64)

/-- read_double (46/R371). -/
def serviceReadDouble (s : State) : State := s.asked.answer s.hostAnswer.value

/-- read_char: the host's code, of any width up to a register's (46/R376, Log 26). -/
def serviceReadChar (s : State) : State := s.asked.answer s.hostAnswer.value

/-- The string a host's answer gives read_string: no zero byte and at most `n - 1` bytes (46/R372). Every
such string is what some answer gives, and every answer gives one (Log 28; safe). -/
def typedString (a : HostAnswer) (n : Nat) : List Byte := (a.bytes.filter (· ≠ 0#8)).take (n - 1)

/-- read_string: the string and a zero byte at the buffer; with length 0 nothing is asked or written
(46/R372). -/
def serviceReadString (s : State) : State :=
  let n := (s.arg 1).toNat
  if n = 0 then s
  else
    match s.asked.writeBuffer (s.arg 0) (typedString s.hostAnswer n ++ [0#8]) with
    | .error t => t
    | .ok t => t

/-! ### Heap growth -/

/-- Some segment other than the heap holds a byte of `lo` to `lo + n - 1` (46/R373). -/
def meetsOther (g : SegmentMap) (lo n : Nat) : Bool :=
  [g.text, g.data, g.ktext, g.kdata, g.stack].any fun seg => seg.overlaps ⟨lo, n, false, false, false⟩

/-- sbrk (46/R373): 0 asks for the break; the heap never shrinks, and never grows past the start of the
stack nor into another segment. -/
def serviceSbrk (s : State) : State :=
  let inc := s.arg 0
  let old := s.brk
  if inc = 0#64 then s.answer (BitVec.ofNat 64 old)
  else if inc.toInt < 0 then s.answer allOnes
  else if s.segments.stack.min < old + inc.toNat || meetsOther s.segments old inc.toNat then s.answer allOnes
  else (s.growHeap (old + inc.toNat)).answer (BitVec.ofNat 64 old)

/-! ### Exit -/

/-- exit: code 0 (46/R374). -/
def serviceExit (s : State) : State := s.halt 0#64

/-- exit2: the whole of `a0` (46/R381). -/
def serviceExit2 (s : State) : State := s.halt (s.arg 0)

/-! ### Files -/

/-- The access mode of an open descriptor. -/
def FdTable.find (t : FdTable) (fd : Nat) : Option FdAccess := (t.find? fun e => e.1 == fd).map (·.2)

/-- Add a descriptor, keeping the numbers rising. -/
def FdTable.add : FdTable → Nat → FdAccess → FdTable
  | [], fd, m => [(fd, m)]
  | e :: rest, fd, m => if fd < e.1 then (fd, m) :: e :: rest else e :: FdTable.add rest fd m

/-- Remove a descriptor. -/
def FdTable.drop (t : FdTable) (fd : Nat) : FdTable := t.filter fun e => e.1 != fd

/-- The smallest number from 3 up that is not in the table (46/R377): one of the first `length + 1`. -/
def FdTable.lowestFree (t : FdTable) : Nat :=
  ((List.range (t.length + 1)).find? fun k => (FdTable.find t (k + 3)).isNone).getD t.length + 3

/-- The modes that allow reading and writing (46/R378, R379). -/
def canRead : FdAccess → Bool
  | .readOnly => true
  | .writeOnly => false
  | .readWrite => true

def canWrite : FdAccess → Bool
  | .readOnly => false
  | .writeOnly => true
  | .readWrite => true

/-- The host opens the file: it says so, and the file exists or is to be created (46/R377). -/
def hostOpens (a : HostAnswer) (flags : Word) : Bool := a.ok && (a.fileExists || flags &&& config.openCreate != 0#64)

/-- The result of open and the event that reports it (46/R377). -/
def openResult (path : List Byte) (flags mode result : Word) (s : State) : State :=
  (s.emit (.fileOpen path flags mode result)).answer result

/-- open, with the path read (46/R377). The invalid access mode fails without asking the host (Log 13). -/
def openPath (s : State) (path : List Byte) : State :=
  let flags := s.arg 1
  let mode := s.arg 2
  match config.openAccess flags with
  | none => openResult path flags mode allOnes s
  | some access =>
    if hostOpens s.hostAnswer flags then
      let fd := FdTable.lowestFree s.fds
      openResult path flags mode (BitVec.ofNat 64 fd) { s.asked with fds := FdTable.add s.fds fd access }
    else openResult path flags mode allOnes s.asked

/-- open (46/R377). -/
def serviceOpen (s : State) : Result := withString s (s.arg 0) fun path => openPath s path

/-- read (46/R378): the descriptor is checked before the buffer is touched; the host gives a failure or at
most `n` bytes. -/
def serviceRead (s : State) : State :=
  match FdTable.find s.fds (s.arg 0).toNat with
  | none => s.answer allOnes
  | some access =>
    if canRead access then
      if s.hostAnswer.ok then
        let bytes := s.hostAnswer.bytes.take (s.arg 2).toNat
        match s.asked.writeBuffer (s.arg 1) bytes with
        | .error t => t
        | .ok t => t.answer (BitVec.ofNat 64 bytes.length)
      else s.asked.answer allOnes
    else s.answer allOnes

/-- The bytes reach the host: the event, and their number as the result (46/R379). -/
def wroteFile (s : State) (fd : Word) (bytes : List Byte) (n : Word) : State :=
  (s.emit (.fileWrite fd bytes)).answer n

/-- write (46/R379): the descriptor is checked first, then the buffer is read; descriptors below 3 never
fail, for the others the host may report an error, and then there is no event (Log 14). -/
def serviceWrite (s : State) : State :=
  let fd := s.arg 0
  match FdTable.find s.fds fd.toNat with
  | none => s.answer allOnes
  | some access =>
    if canWrite access then
      match s.readBuffer (s.arg 1) (s.arg 2).toNat with
      | .error c => s.raise c
      | .ok bytes =>
        if fd.toNat < 3 then wroteFile s fd bytes (s.arg 2)
        else if s.hostAnswer.ok then wroteFile s.asked fd bytes (s.arg 2)
        else s.asked.answer allOnes
    else s.answer allOnes

/-- close (46/R380): the reserved descriptors cannot be closed. -/
def serviceClose (s : State) : State :=
  let fd := s.arg 0
  if 3 ≤ fd.toNat && (FdTable.find s.fds fd.toNat).isSome then
    (({ s with fds := FdTable.drop s.fds fd.toNat } : State).emit (.fileClose fd)).answer 0#64
  else s.answer allOnes

/-! ### The instruction -/

/-- The service's operation (46/R362). -/
def runService (service : Service) (s : State) : Result :=
  match service with
  | .printInt => .next (servicePrintInt s)
  | .printFloat => .next (servicePrintFloat s)
  | .printDouble => .next (servicePrintDouble s)
  | .printString => servicePrintString s
  | .readInt => .next (serviceReadInt s)
  | .readFloat => .next (serviceReadFloat s)
  | .readDouble => .next (serviceReadDouble s)
  | .readString => .next (serviceReadString s)
  | .sbrk => .next (serviceSbrk s)
  | .exit => .next (serviceExit s)
  | .printChar => .next (servicePrintChar s)
  | .readChar => .next (serviceReadChar s)
  | .openFile => serviceOpen s
  | .readFile => .next (serviceRead s)
  | .writeFile => .next (serviceWrite s)
  | .closeFile => .next (serviceClose s)
  | .exit2 => .next (serviceExit2 s)

/-- `syscall` (R360): a number that is no service raises `BadSyscall` before anything else. -/
def execSyscall (s : State) : Result :=
  let n := s.readX config.serviceReg
  match config.service n with
  | none => .next (s.raise (.badSyscall n))
  | some service => runService service s

end Sys2Proof.Machine
end

