-- ==== Sys2Proof/Machine/VectorArith.lean ====
section
/-! DEFINITION. Vector arithmetic, bitwise logic and shifts (44_vector_arith.md). -/

namespace Sys2Proof.Machine

/-- `v[rd] <- f v[rs] v[rt]`: all lanes are read before any is written (44/R270, R271). -/
def vecOp (f : VWord → VWord → VWord) (rs rt rd : RegNum) (s : State) : State :=
  s.writeV rd (f (s.readV rs) (s.readV rt))

/-- `v[rd] <- f v[rs] x[rt]` (44/R271). -/
def vecScalarOp (f : VWord → Word → VWord) (rs rt rd : RegNum) (s : State) : State :=
  s.writeV rd (f (s.readV rs) (s.readX rt))

/-- Lane-wise float arithmetic; lane `k` has free value `k` for its NaN (44/R273, Log 7). -/
def floatLanes (w : Nat) (F : FloatFormat) (op : FloatFormat → Nat → Nat → Option Nat) (rs rt : RegNum)
    (s : State) : VWord :=
  ofLanes w fun k => floatLane F op (s.freeDraw k) (lane w k (s.readV rs)) (lane w k (s.readV rt))

/-- A lane-wise float instruction. -/
def floatOp (w : Nat) (F : FloatFormat) (op : FloatFormat → Nat → Nat → Option Nat) (rs rt rd : RegNum)
    (s : State) : State :=
  (s.writeV rd (floatLanes w F op rs rt s)).drew (laneCount w)

/-- The signed quotients of the lanes, `none` where the division of some lane raises `ArithFault` (44/R272). -/
def quotientLanes (w : Nat) (a b : VWord) : Option VWord :=
  if anyLane w fun k => (divideSigned (lane w k a) (lane w k b)).isNone then none
  else some (zipLanes w (fun x y => (divideSigned x y).elim 0#w (·.1)) a b)

/-- A lane-wise signed integer divide: one lane without a result raises `ArithFault` and no lane is
written (44/R272, 60/R418). -/
def vecDivideOp (w : Nat) (i : Instr) (rs rt rd : RegNum) (s : State) : State :=
  match quotientLanes w (s.readV rs) (s.readV rt) with
  | none => s.raise (.arithFault (encode i))
  | some v => s.writeV rd v

/-- Every lane shifted by the one count in a general register (44/R274). -/
def shiftAll (w : Nat) (sh : BitVec w → Nat → BitVec w) (a : VWord) (c : Word) : VWord :=
  mapLanes w (fun x => sh x c.toNat) a

/-- Every lane shifted by the count in its lane of the second source (44/R274). -/
def shiftEach (w : Nat) (sh : BitVec w → Nat → BitVec w) (a c : VWord) : VWord :=
  zipLanes w (fun x n => sh x n.toNat) a c

/-! ### Add -/

/-- `vaddi32` (R275). -/
def execVaddi32 (rs rt rd : RegNum) (s : State) : Result :=
  .next (vecOp (zipLanes 32 fun a b => a + b) rs rt rd s)

/-- `vaddi64` (R276). -/
def execVaddi64 (rs rt rd : RegNum) (s : State) : Result :=
  .next (vecOp (zipLanes 64 fun a b => a + b) rs rt rd s)

/-- `vaddf32` (R277). -/
def execVaddf32 (rs rt rd : RegNum) (s : State) : Result :=
  .next (floatOp 32 binary32 config.fp.add rs rt rd s)

/-- `vaddf64` (R278). -/
def execVaddf64 (rs rt rd : RegNum) (s : State) : Result :=
  .next (floatOp 64 binary64 config.fp.add rs rt rd s)

/-! ### Subtract -/

/-- `vsubi32` (R279). -/
def execVsubi32 (rs rt rd : RegNum) (s : State) : Result :=
  .next (vecOp (zipLanes 32 fun a b => a - b) rs rt rd s)

/-- `vsubi64` (R280). -/
def execVsubi64 (rs rt rd : RegNum) (s : State) : Result :=
  .next (vecOp (zipLanes 64 fun a b => a - b) rs rt rd s)

/-- `vsubf32` (R281). -/
def execVsubf32 (rs rt rd : RegNum) (s : State) : Result :=
  .next (floatOp 32 binary32 config.fp.sub rs rt rd s)

/-- `vsubf64` (R282). -/
def execVsubf64 (rs rt rd : RegNum) (s : State) : Result :=
  .next (floatOp 64 binary64 config.fp.sub rs rt rd s)

/-! ### Multiply -/

/-- `vmuli32` (R283). -/
def execVmuli32 (rs rt rd : RegNum) (s : State) : Result :=
  .next (vecOp (zipLanes 32 fun a b => a * b) rs rt rd s)

/-- `vmuli64` (R284). -/
def execVmuli64 (rs rt rd : RegNum) (s : State) : Result :=
  .next (vecOp (zipLanes 64 fun a b => a * b) rs rt rd s)

/-- `vmulf32` (R285). -/
def execVmulf32 (rs rt rd : RegNum) (s : State) : Result :=
  .next (floatOp 32 binary32 config.fp.mul rs rt rd s)

/-- `vmulf64` (R286). -/
def execVmulf64 (rs rt rd : RegNum) (s : State) : Result :=
  .next (floatOp 64 binary64 config.fp.mul rs rt rd s)

/-! ### Divide -/

/-- `vdivi32` (R287). -/
def execVdivi32 (rs rt rd : RegNum) (s : State) : Result :=
  .next (vecDivideOp 32 (.vdivi32 rs rt rd) rs rt rd s)

/-- `vdivi64` (R288). -/
def execVdivi64 (rs rt rd : RegNum) (s : State) : Result :=
  .next (vecDivideOp 64 (.vdivi64 rs rt rd) rs rt rd s)

/-- `vdivf32` (R289). -/
def execVdivf32 (rs rt rd : RegNum) (s : State) : Result :=
  .next (floatOp 32 binary32 config.fp.div rs rt rd s)

/-- `vdivf64` (R290). -/
def execVdivf64 (rs rt rd : RegNum) (s : State) : Result :=
  .next (floatOp 64 binary64 config.fp.div rs rt rd s)

/-! ### Bitwise logic, on all 256 bits -/

/-- `vand` (R291). -/
def execVand (rs rt rd : RegNum) (s : State) : Result :=
  .next (vecOp (fun a b => a &&& b) rs rt rd s)

/-- `vor` (R292). -/
def execVor (rs rt rd : RegNum) (s : State) : Result :=
  .next (vecOp (fun a b => a ||| b) rs rt rd s)

/-- `vxor` (R293). -/
def execVxor (rs rt rd : RegNum) (s : State) : Result :=
  .next (vecOp (fun a b => a ^^^ b) rs rt rd s)

/-- `vnor` (R294). -/
def execVnor (rs rt rd : RegNum) (s : State) : Result :=
  .next (vecOp (fun a b => ~~~(a ||| b)) rs rt rd s)

/-! ### Shifts by a scalar count -/

/-- `vsll32` (R295). -/
def execVsll32 (rs rt rd : RegNum) (s : State) : Result :=
  .next (vecScalarOp (shiftAll 32 shiftLeft) rs rt rd s)

/-- `vsll64` (R296). -/
def execVsll64 (rs rt rd : RegNum) (s : State) : Result :=
  .next (vecScalarOp (shiftAll 64 shiftLeft) rs rt rd s)

/-- `vsrl32` (R297). -/
def execVsrl32 (rs rt rd : RegNum) (s : State) : Result :=
  .next (vecScalarOp (shiftAll 32 shiftRightLogical) rs rt rd s)

/-- `vsrl64` (R298). -/
def execVsrl64 (rs rt rd : RegNum) (s : State) : Result :=
  .next (vecScalarOp (shiftAll 64 shiftRightLogical) rs rt rd s)

/-- `vsra32` (R299). -/
def execVsra32 (rs rt rd : RegNum) (s : State) : Result :=
  .next (vecScalarOp (shiftAll 32 shiftRightArith) rs rt rd s)

/-- `vsra64` (R300). -/
def execVsra64 (rs rt rd : RegNum) (s : State) : Result :=
  .next (vecScalarOp (shiftAll 64 shiftRightArith) rs rt rd s)

/-! ### Shifts by a vector of counts -/

/-- `vsllv32` (R301). -/
def execVsllv32 (rs rt rd : RegNum) (s : State) : Result :=
  .next (vecOp (shiftEach 32 shiftLeft) rs rt rd s)

/-- `vsllv64` (R302). -/
def execVsllv64 (rs rt rd : RegNum) (s : State) : Result :=
  .next (vecOp (shiftEach 64 shiftLeft) rs rt rd s)

/-- `vsrlv32` (R303). -/
def execVsrlv32 (rs rt rd : RegNum) (s : State) : Result :=
  .next (vecOp (shiftEach 32 shiftRightLogical) rs rt rd s)

/-- `vsrlv64` (R304). -/
def execVsrlv64 (rs rt rd : RegNum) (s : State) : Result :=
  .next (vecOp (shiftEach 64 shiftRightLogical) rs rt rd s)

/-- `vsrav32` (R305). -/
def execVsrav32 (rs rt rd : RegNum) (s : State) : Result :=
  .next (vecOp (shiftEach 32 shiftRightArith) rs rt rd s)

/-- `vsrav64` (R306). -/
def execVsrav64 (rs rt rd : RegNum) (s : State) : Result :=
  .next (vecOp (shiftEach 64 shiftRightArith) rs rt rd s)

end Sys2Proof.Machine
end

