-- ==== Sys2Proof/Machine/VectorMisc.lean ====
section
/-! DEFINITION. Vector compare, convert, reduce, bit extraction, shuffle, load and store (45_vector_misc.md). -/

namespace Sys2Proof.Machine

/-- Lane-wise compare: the integer 1 where the relation holds, else 0, for float lanes too (45/R320). -/
def compareLanes (w : Nat) (rel : BitVec w → BitVec w → Bool) (a b : VWord) : VWord :=
  zipLanes w (fun x y => zeroOne w (rel x y)) a b

/-- A conversion with the rounding the low two bits of `x[rt]` select; a selector without a rounding
raises `CvtModeFault` before any lane (45/R321, 60/R419). `lanes` is the result, `draws` how many free values
it may use. -/
def convertOp (i : Instr) (lanes : RoundMode → VWord) (draws : Nat) (rt rd : RegNum) (s : State) : State :=
  match config.cvtMode ((s.readX rt).extractLsb' 0 2) with
  | none => s.raise (.cvtModeFault (encode i))
  | some mode => (s.writeV rd (lanes mode)).drew draws

/-- Integer lanes to float lanes of the same width (45/R333, R334). -/
def intToFloatLanes (w : Nat) (F : FloatFormat) (a : VWord) (mode : RoundMode) : VWord :=
  mapLanes w (intToFloat F mode) a

/-- Float lanes to integer lanes; lane `k` has free value `k` where it is not specified (45/R335, R336, Log 8). -/
def floatToIntLanes (w : Nat) (F : FloatFormat) (rs : RegNum) (s : State) (mode : RoundMode) : VWord :=
  ofLanes w fun k => floatToInt F mode (s.freeDraw k) (lane w k (s.readV rs))

/-- The wrapping sum of the lanes (45/R322). -/
def sumLanes (w : Nat) (a : VWord) : BitVec w :=
  (List.range (laneCount w)).foldl (fun acc k => acc + lane w k a) 0#w

/-- The float sum in lane order from lane 0, each addition rounded; addition `k` has free value `k` for its
NaN (45/R322, R339). -/
def sumFloatLanes (w : Nat) (F : FloatFormat) (rs : RegNum) (s : State) : BitVec w :=
  (List.range' 1 (laneCount w - 1)).foldl
    (fun acc k => floatLane F config.fp.add (s.freeDraw k) acc (lane w k (s.readV rs))) (lane w 0 (s.readV rs))

/-- Destination lane `k` is the source lane that its index names, the bits of `x[rt]` at the place `SHUF_PACK` gives
(45 section 5). -/
def shuffleLanes (w : Nat) (pack : IndexPacking) (a : VWord) (c : Word) : VWord :=
  ofLanes w fun k => lane w (c.extractLsb' (pack.lsb k) pack.bits).toNat a

/-! ### Compare -/

/-- `vseqi32` (R325). -/
def execVseqi32 (rs rt rd : RegNum) (s : State) : Result :=
  .next (vecOp (compareLanes 32 (fun a b => a == b)) rs rt rd s)

/-- `vseqi64` (R326). -/
def execVseqi64 (rs rt rd : RegNum) (s : State) : Result :=
  .next (vecOp (compareLanes 64 (fun a b => a == b)) rs rt rd s)

/-- `vseqf32` (R327). -/
def execVseqf32 (rs rt rd : RegNum) (s : State) : Result :=
  .next (vecOp (compareLanes 32 (floatEqual binary32)) rs rt rd s)

/-- `vseqf64` (R328). -/
def execVseqf64 (rs rt rd : RegNum) (s : State) : Result :=
  .next (vecOp (compareLanes 64 (floatEqual binary64)) rs rt rd s)

/-- `vslti32` (R329). -/
def execVslti32 (rs rt rd : RegNum) (s : State) : Result :=
  .next (vecOp (compareLanes 32 signedLess) rs rt rd s)

/-- `vslti64` (R330). -/
def execVslti64 (rs rt rd : RegNum) (s : State) : Result :=
  .next (vecOp (compareLanes 64 signedLess) rs rt rd s)

/-- `vsltf32` (R331). -/
def execVsltf32 (rs rt rd : RegNum) (s : State) : Result :=
  .next (vecOp (compareLanes 32 (floatLess binary32)) rs rt rd s)

/-- `vsltf64` (R332). -/
def execVsltf64 (rs rt rd : RegNum) (s : State) : Result :=
  .next (vecOp (compareLanes 64 (floatLess binary64)) rs rt rd s)

/-! ### Convert -/

/-- `vcvti32f32` (R333). -/
def execVcvti32f32 (rs rt rd : RegNum) (s : State) : Result :=
  .next (convertOp (.vcvti32f32 rs rt rd) (intToFloatLanes 32 binary32 (s.readV rs)) 0 rt rd s)

/-- `vcvti64f64` (R334). -/
def execVcvti64f64 (rs rt rd : RegNum) (s : State) : Result :=
  .next (convertOp (.vcvti64f64 rs rt rd) (intToFloatLanes 64 binary64 (s.readV rs)) 0 rt rd s)

/-- `vcvtf32i32` (R335). -/
def execVcvtf32i32 (rs rt rd : RegNum) (s : State) : Result :=
  .next (convertOp (.vcvtf32i32 rs rt rd) (floatToIntLanes 32 binary32 rs s) (laneCount 32) rt rd s)

/-- `vcvtf64i64` (R336). -/
def execVcvtf64i64 (rs rt rd : RegNum) (s : State) : Result :=
  .next (convertOp (.vcvtf64i64 rs rt rd) (floatToIntLanes 64 binary64 rs s) (laneCount 64) rt rd s)

/-! ### Horizontal sum -/

/-- `vsumi32` (R337). -/
def execVsumi32 (rs rd : RegNum) (s : State) : Result :=
  .next (s.writeX rd (sext32 (sumLanes 32 (s.readV rs))))

/-- `vsumi64` (R338). -/
def execVsumi64 (rs rd : RegNum) (s : State) : Result :=
  .next (s.writeX rd (sumLanes 64 (s.readV rs)))

/-- `vsumf32` (R339). -/
def execVsumf32 (rs rd : RegNum) (s : State) : Result :=
  .next ((s.writeX rd ((sumFloatLanes 32 binary32 rs s).setWidth 64)).drew (laneCount 32))

/-- `vsumf64` (R340). -/
def execVsumf64 (rs rd : RegNum) (s : State) : Result :=
  .next ((s.writeX rd (sumFloatLanes 64 binary64 rs s)).drew (laneCount 64))

/-! ### Bit extraction -/

/-- `vmsb32` (R341). -/
def execVmsb32 (rs rd : RegNum) (s : State) : Result :=
  .next (s.writeX rd (packBits 32 fun k => (lane 32 k (s.readV rs)).getLsbD 31))

/-- `vmsb64` (R342). -/
def execVmsb64 (rs rd : RegNum) (s : State) : Result :=
  .next (s.writeX rd (packBits 64 fun k => (lane 64 k (s.readV rs)).getLsbD 63))

/-- `vlsb32` (R343). -/
def execVlsb32 (rs rd : RegNum) (s : State) : Result :=
  .next (s.writeX rd (packBits 32 fun k => (lane 32 k (s.readV rs)).getLsbD 0))

/-- `vlsb64` (R344). -/
def execVlsb64 (rs rd : RegNum) (s : State) : Result :=
  .next (s.writeX rd (packBits 64 fun k => (lane 64 k (s.readV rs)).getLsbD 0))

/-! ### Shuffle -/

/-- `vshuf32` (R345). -/
def execVshuf32 (rs rt rd : RegNum) (s : State) : Result :=
  .next (vecScalarOp (shuffleLanes 32 config.shufPack32) rs rt rd s)

/-- `vshuf64` (R346). -/
def execVshuf64 (rs rt rd : RegNum) (s : State) : Result :=
  .next (vecScalarOp (shuffleLanes 64 config.shufPack64) rs rt rd s)

/-! ### Vector load and store: all 32 bytes in one access -/

/-- `vld` (R347). -/
def execVld (rs rt : RegNum) (imm : BitVec 15) (s : State) : Result :=
  .next (match s.memRead (offsetAddress s rs imm) 32 with
    | .error c => s.raise c
    | .ok m => s.writeV rt m)

/-- `vst` (R348). -/
def execVst (rs rt : RegNum) (imm : BitVec 15) (s : State) : Result :=
  .next (match s.memWrite (offsetAddress s rs imm) 32 (s.readV rt) with
    | .error c => s.raise c
    | .ok s' => s')

end Sys2Proof.Machine
end

