-- ==== Sys2Proof/Machine/Dispatch.lean ====
section
/-! DEFINITION. The meaning of every instruction, one arm each (30/R100 step 7). `pc` has been advanced
before. -/

namespace Sys2Proof.Machine

def exec (i : Instr) (s : State) : Host.Outcome State Fault Refusal :=
  match i with
  | .nop _ => Sys2Proof.Machine.execNop s
  | .syscall _ => Sys2Proof.Machine.execSyscall s
  | .j addr => Sys2Proof.Machine.execJ addr s
  | .jal addr => Sys2Proof.Machine.execJal addr s
  | .add rs rt rd => Sys2Proof.Machine.execAdd rs rt rd s
  | .sub rs rt rd => Sys2Proof.Machine.execSub rs rt rd s
  | .addw rs rt rd => Sys2Proof.Machine.execAddw rs rt rd s
  | .subw rs rt rd => Sys2Proof.Machine.execSubw rs rt rd s
  | .mult rs rt _ => Sys2Proof.Machine.execMult rs rt s
  | .multu rs rt _ => Sys2Proof.Machine.execMultu rs rt s
  | .multw rs rt _ => Sys2Proof.Machine.execMultw rs rt s
  | .multuw rs rt _ => Sys2Proof.Machine.execMultuw rs rt s
  | .div rs rt rd => Sys2Proof.Machine.execDiv rs rt rd s
  | .divu rs rt rd => Sys2Proof.Machine.execDivu rs rt rd s
  | .divw rs rt rd => Sys2Proof.Machine.execDivw rs rt rd s
  | .divuw rs rt rd => Sys2Proof.Machine.execDivuw rs rt rd s
  | .mfhi _ _ rd => Sys2Proof.Machine.execMfhi rd s
  | .mflo _ _ rd => Sys2Proof.Machine.execMflo rd s
  | .mthi rs _ _ => Sys2Proof.Machine.execMthi rs s
  | .mtlo rs _ _ => Sys2Proof.Machine.execMtlo rs s
  | .and rs rt rd => Sys2Proof.Machine.execAnd rs rt rd s
  | .or rs rt rd => Sys2Proof.Machine.execOr rs rt rd s
  | .xor rs rt rd => Sys2Proof.Machine.execXor rs rt rd s
  | .nor rs rt rd => Sys2Proof.Machine.execNor rs rt rd s
  | .sll rs rt rd => Sys2Proof.Machine.execSll rs rt rd s
  | .srl rs rt rd => Sys2Proof.Machine.execSrl rs rt rd s
  | .sra rs rt rd => Sys2Proof.Machine.execSra rs rt rd s
  | .sllw rs rt rd => Sys2Proof.Machine.execSllw rs rt rd s
  | .srlw rs rt rd => Sys2Proof.Machine.execSrlw rs rt rd s
  | .sraw rs rt rd => Sys2Proof.Machine.execSraw rs rt rd s
  | .slt rs rt rd => Sys2Proof.Machine.execSlt rs rt rd s
  | .sltu rs rt rd => Sys2Proof.Machine.execSltu rs rt rd s
  | .jr rs _ _ => Sys2Proof.Machine.execJr rs s
  | .jalr rs _ _ => Sys2Proof.Machine.execJalr rs s
  | .lbx rs rt rd => Sys2Proof.Machine.execLbx rs rt rd s
  | .lbux rs rt rd => Sys2Proof.Machine.execLbux rs rt rd s
  | .lhx rs rt rd => Sys2Proof.Machine.execLhx rs rt rd s
  | .lhux rs rt rd => Sys2Proof.Machine.execLhux rs rt rd s
  | .lwx rs rt rd => Sys2Proof.Machine.execLwx rs rt rd s
  | .lwux rs rt rd => Sys2Proof.Machine.execLwux rs rt rd s
  | .ldx rs rt rd => Sys2Proof.Machine.execLdx rs rt rd s
  | .sbx rs rt rd => Sys2Proof.Machine.execSbx rs rt rd s
  | .shx rs rt rd => Sys2Proof.Machine.execShx rs rt rd s
  | .swx rs rt rd => Sys2Proof.Machine.execSwx rs rt rd s
  | .sdx rs rt rd => Sys2Proof.Machine.execSdx rs rt rd s
  | .vaddi32 rs rt rd => Sys2Proof.Machine.execVaddi32 rs rt rd s
  | .vaddi64 rs rt rd => Sys2Proof.Machine.execVaddi64 rs rt rd s
  | .vaddf32 rs rt rd => Sys2Proof.Machine.execVaddf32 rs rt rd s
  | .vaddf64 rs rt rd => Sys2Proof.Machine.execVaddf64 rs rt rd s
  | .vsubi32 rs rt rd => Sys2Proof.Machine.execVsubi32 rs rt rd s
  | .vsubi64 rs rt rd => Sys2Proof.Machine.execVsubi64 rs rt rd s
  | .vsubf32 rs rt rd => Sys2Proof.Machine.execVsubf32 rs rt rd s
  | .vsubf64 rs rt rd => Sys2Proof.Machine.execVsubf64 rs rt rd s
  | .vmuli32 rs rt rd => Sys2Proof.Machine.execVmuli32 rs rt rd s
  | .vmuli64 rs rt rd => Sys2Proof.Machine.execVmuli64 rs rt rd s
  | .vmulf32 rs rt rd => Sys2Proof.Machine.execVmulf32 rs rt rd s
  | .vmulf64 rs rt rd => Sys2Proof.Machine.execVmulf64 rs rt rd s
  | .vdivi32 rs rt rd => Sys2Proof.Machine.execVdivi32 rs rt rd s
  | .vdivi64 rs rt rd => Sys2Proof.Machine.execVdivi64 rs rt rd s
  | .vdivf32 rs rt rd => Sys2Proof.Machine.execVdivf32 rs rt rd s
  | .vdivf64 rs rt rd => Sys2Proof.Machine.execVdivf64 rs rt rd s
  | .vand rs rt rd => Sys2Proof.Machine.execVand rs rt rd s
  | .vor rs rt rd => Sys2Proof.Machine.execVor rs rt rd s
  | .vxor rs rt rd => Sys2Proof.Machine.execVxor rs rt rd s
  | .vnor rs rt rd => Sys2Proof.Machine.execVnor rs rt rd s
  | .vsll32 rs rt rd => Sys2Proof.Machine.execVsll32 rs rt rd s
  | .vsll64 rs rt rd => Sys2Proof.Machine.execVsll64 rs rt rd s
  | .vsrl32 rs rt rd => Sys2Proof.Machine.execVsrl32 rs rt rd s
  | .vsrl64 rs rt rd => Sys2Proof.Machine.execVsrl64 rs rt rd s
  | .vsra32 rs rt rd => Sys2Proof.Machine.execVsra32 rs rt rd s
  | .vsra64 rs rt rd => Sys2Proof.Machine.execVsra64 rs rt rd s
  | .vsllv32 rs rt rd => Sys2Proof.Machine.execVsllv32 rs rt rd s
  | .vsllv64 rs rt rd => Sys2Proof.Machine.execVsllv64 rs rt rd s
  | .vsrlv32 rs rt rd => Sys2Proof.Machine.execVsrlv32 rs rt rd s
  | .vsrlv64 rs rt rd => Sys2Proof.Machine.execVsrlv64 rs rt rd s
  | .vsrav32 rs rt rd => Sys2Proof.Machine.execVsrav32 rs rt rd s
  | .vsrav64 rs rt rd => Sys2Proof.Machine.execVsrav64 rs rt rd s
  | .vseqi32 rs rt rd => Sys2Proof.Machine.execVseqi32 rs rt rd s
  | .vseqi64 rs rt rd => Sys2Proof.Machine.execVseqi64 rs rt rd s
  | .vseqf32 rs rt rd => Sys2Proof.Machine.execVseqf32 rs rt rd s
  | .vseqf64 rs rt rd => Sys2Proof.Machine.execVseqf64 rs rt rd s
  | .vslti32 rs rt rd => Sys2Proof.Machine.execVslti32 rs rt rd s
  | .vslti64 rs rt rd => Sys2Proof.Machine.execVslti64 rs rt rd s
  | .vsltf32 rs rt rd => Sys2Proof.Machine.execVsltf32 rs rt rd s
  | .vsltf64 rs rt rd => Sys2Proof.Machine.execVsltf64 rs rt rd s
  | .vcvti32f32 rs rt rd => Sys2Proof.Machine.execVcvti32f32 rs rt rd s
  | .vcvti64f64 rs rt rd => Sys2Proof.Machine.execVcvti64f64 rs rt rd s
  | .vcvtf32i32 rs rt rd => Sys2Proof.Machine.execVcvtf32i32 rs rt rd s
  | .vcvtf64i64 rs rt rd => Sys2Proof.Machine.execVcvtf64i64 rs rt rd s
  | .vsumi32 rs _ rd => Sys2Proof.Machine.execVsumi32 rs rd s
  | .vsumi64 rs _ rd => Sys2Proof.Machine.execVsumi64 rs rd s
  | .vsumf32 rs _ rd => Sys2Proof.Machine.execVsumf32 rs rd s
  | .vsumf64 rs _ rd => Sys2Proof.Machine.execVsumf64 rs rd s
  | .vmsb32 rs _ rd => Sys2Proof.Machine.execVmsb32 rs rd s
  | .vmsb64 rs _ rd => Sys2Proof.Machine.execVmsb64 rs rd s
  | .vlsb32 rs _ rd => Sys2Proof.Machine.execVlsb32 rs rd s
  | .vlsb64 rs _ rd => Sys2Proof.Machine.execVlsb64 rs rd s
  | .vshuf32 rs rt rd => Sys2Proof.Machine.execVshuf32 rs rt rd s
  | .vshuf64 rs rt rd => Sys2Proof.Machine.execVshuf64 rs rt rd s
  | .addi rs rt imm => Sys2Proof.Machine.execAddi rs rt imm s
  | .addiu rs rt imm => Sys2Proof.Machine.execAddiu rs rt imm s
  | .addwi rs rt imm => Sys2Proof.Machine.execAddwi rs rt imm s
  | .addwiu rs rt imm => Sys2Proof.Machine.execAddwiu rs rt imm s
  | .andi rs rt imm => Sys2Proof.Machine.execAndi rs rt imm s
  | .andiu rs rt imm => Sys2Proof.Machine.execAndiu rs rt imm s
  | .ori rs rt imm => Sys2Proof.Machine.execOri rs rt imm s
  | .oriu rs rt imm => Sys2Proof.Machine.execOriu rs rt imm s
  | .xori rs rt imm => Sys2Proof.Machine.execXori rs rt imm s
  | .xoriu rs rt imm => Sys2Proof.Machine.execXoriu rs rt imm s
  | .slti rs rt imm => Sys2Proof.Machine.execSlti rs rt imm s
  | .sltiu rs rt imm => Sys2Proof.Machine.execSltiu rs rt imm s
  | .slli rs rt imm => Sys2Proof.Machine.execSlli rs rt imm s
  | .srli rs rt imm => Sys2Proof.Machine.execSrli rs rt imm s
  | .srai rs rt imm => Sys2Proof.Machine.execSrai rs rt imm s
  | .sllwi rs rt imm => Sys2Proof.Machine.execSllwi rs rt imm s
  | .srlwi rs rt imm => Sys2Proof.Machine.execSrlwi rs rt imm s
  | .srawi rs rt imm => Sys2Proof.Machine.execSrawi rs rt imm s
  | .lb rs rt imm => Sys2Proof.Machine.execLb rs rt imm s
  | .lbu rs rt imm => Sys2Proof.Machine.execLbu rs rt imm s
  | .lh rs rt imm => Sys2Proof.Machine.execLh rs rt imm s
  | .lhu rs rt imm => Sys2Proof.Machine.execLhu rs rt imm s
  | .lw rs rt imm => Sys2Proof.Machine.execLw rs rt imm s
  | .lwu rs rt imm => Sys2Proof.Machine.execLwu rs rt imm s
  | .ld rs rt imm => Sys2Proof.Machine.execLd rs rt imm s
  | .sb rs rt imm => Sys2Proof.Machine.execSb rs rt imm s
  | .sh rs rt imm => Sys2Proof.Machine.execSh rs rt imm s
  | .sw rs rt imm => Sys2Proof.Machine.execSw rs rt imm s
  | .sd rs rt imm => Sys2Proof.Machine.execSd rs rt imm s
  | .vld rs rt imm => Sys2Proof.Machine.execVld rs rt imm s
  | .vst rs rt imm => Sys2Proof.Machine.execVst rs rt imm s
  | .beq rs rt imm => Sys2Proof.Machine.execBeq rs rt imm s
  | .bne rs rt imm => Sys2Proof.Machine.execBne rs rt imm s
  | .blt rs rt imm => Sys2Proof.Machine.execBlt rs rt imm s
  | .bge rs rt imm => Sys2Proof.Machine.execBge rs rt imm s
  | .bltu rs rt imm => Sys2Proof.Machine.execBltu rs rt imm s
  | .bgeu rs rt imm => Sys2Proof.Machine.execBgeu rs rt imm s
  | .li0 rd imm => Sys2Proof.Machine.execLi0 rd imm s
  | .li1 rd imm => Sys2Proof.Machine.execLi1 rd imm s
  | .li2 rd imm => Sys2Proof.Machine.execLi2 rd imm s
  | .li3 rd imm => Sys2Proof.Machine.execLi3 rd imm s

end Sys2Proof.Machine
end

