-- ==== Sys2Proof/Machine/Step.lean ====
section
/-! DEFINITION. One call of `Clock()` (30/R100). -/

namespace Sys2Proof.Machine

/-- `Clock()`: in Ready, fetch, advance `pc`, decode and run one instruction; in Halted and Faulted, no
change (10/R34). -/
def step (s : State) : Host.Outcome State Fault Refusal :=
  match s.fetchDecode with
  | .stays t => .next t
  | .runs i t => exec i t

/-- The state with the opcode table's instruction `w` of `nbits` bits where the next step fetches (Log 27). -/
def State.withFetchWord (s : State) (nbits w : Nat) : State := placeWord s (tableWord nbits w)

end Sys2Proof.Machine
end

