-- ==== Sys2Proof/Safety.lean ====
section
/-! DEFINITION. The terms the claims use: the words of the formats as the spec writes them, what an
instruction changes and what it leaves alone, what bytes of memory hold, and the invariant of the
machine. -/

namespace Sys2Proof.Machine

/-! ### Words of the formats (30/R112 to R115) -/

/-- `base | rs<<20 | rt<<15 | rd<<10 | func` (30/R112, R113). -/
def wordR (base : InstrWord) (rs rt rd : RegNum) (func : InstrWord) : InstrWord :=
  base ||| (rs.setWidth 32 <<< 20) ||| (rt.setWidth 32 <<< 15) ||| (rd.setWidth 32 <<< 10) ||| func

/-- `opcode<<25 | rs<<20 | rt<<15 | imm15` (30/R114). -/
def wordI (opcode : InstrWord) (rs rt : RegNum) (imm : BitVec 15) : InstrWord :=
  (opcode <<< 25) ||| (rs.setWidth 32 <<< 20) ||| (rt.setWidth 32 <<< 15) ||| imm.setWidth 32

/-- `base | addr25` (30/R115). -/
def wordJ (base : InstrWord) (addr : BitVec 25) : InstrWord := base ||| addr.setWidth 32

/-- `0x80000000 | rd<<20 | k<<16 | imm16` (30/R115). -/
def wordEI (rd : RegNum) (k : InstrWord) (imm : BitVec 16) : InstrWord :=
  0x80000000#32 ||| (rd.setWidth 32 <<< 20) ||| (k <<< 16) ||| imm.setWidth 32

/-- The word is one of the format of a row of `ITABLE`, with the row's opcode and func (30/R112 to R115). -/
def OfFormat (m : Mnemonic) (w : InstrWord) : Prop :=
  let opcode := (config.itable m).opcode.setWidth 32
  let func := (config.itable m).func.setWidth 32
  match (config.itable m).format with
  | .R => ∃ rs rt rd, w = wordR (opcode <<< 25) rs rt rd func
  | .I => ∃ rs rt imm, w = wordI opcode rs rt imm
  | .J => ∃ addr, w = wordJ (opcode <<< 25) addr
  | .EI => opcode = 0x40#32 ∧ ∃ rd imm, w = wordEI rd func imm

/-! ### What an instruction changes and leaves alone -/

/-- What no instruction but `syscall` and a fatal condition touches: the kernel bank, the operational
state and exit code, the segment table, the descriptors, and the host's side. -/
structure SystemKept (s t : State) : Prop where
  kernel : t.kernel = s.kernel
  op : t.op = s.op
  exitCode : t.exitCode = s.exitCode
  segments : t.segments = s.segments
  fds : t.fds = s.fds
  trace : t.trace = s.trace
  hostInput : t.hostInput = s.hostInput
  hostAsked : t.hostAsked = s.hostAsked

/-- From `s` to `t` only the general register `d` changes: it reads as `w`, or as 0 where it is register 0,
and `draws` free values are used up. -/
structure WritesX (s t : State) (d : RegNum) (w : Word) (draws : Nat) : Prop where
  result : t.readX d = if d = 0#5 then 0#64 else w
  others : ∀ r, r ≠ d → t.readX r = s.readX r
  vectors : ∀ r, t.readV r = s.readV r
  hi : t.hi = s.hi
  lo : t.lo = s.lo
  pc : t.pc = s.pc
  bytes : ∀ a, t.byteAt a = s.byteAt a
  draws : t.freeDraws = s.freeDraws + draws
  system : SystemKept s t

/-- Only the vector register `d` changes: it reads as `w`, and `draws` free values are used up. -/
structure WritesV (s t : State) (d : RegNum) (w : VWord) (draws : Nat) : Prop where
  result : t.readV d = w
  others : ∀ r, r ≠ d → t.readV r = s.readV r
  general : ∀ r, t.readX r = s.readX r
  hi : t.hi = s.hi
  lo : t.lo = s.lo
  pc : t.pc = s.pc
  bytes : ∀ a, t.byteAt a = s.byteAt a
  draws : t.freeDraws = s.freeDraws + draws
  system : SystemKept s t

/-- Only the vector register `d` changes: lane `k` of its view with `w`-bit lanes is `f k`, for every
lane. -/
def WritesLanes (w : Nat) (s t : State) (d : RegNum) (f : Nat → BitVec w) (draws : Nat) : Prop :=
  ∃ r, WritesV s t d r draws ∧ ∀ k, k < 256 / w → lane w k r = f k

/-- Only `hi` and `lo` change. -/
structure WritesHiLo (s t : State) (h l : Word) : Prop where
  hi : t.hi = h
  lo : t.lo = l
  general : ∀ r, t.readX r = s.readX r
  vectors : ∀ r, t.readV r = s.readV r
  pc : t.pc = s.pc
  bytes : ∀ a, t.byteAt a = s.byteAt a
  draws : t.freeDraws = s.freeDraws
  system : SystemKept s t

/-- Only the `n` bytes of memory from address `a` up change: byte `j` becomes bits `8j + 7` to `8j` of `v`. -/
structure WritesBytes (s t : State) (a n : Nat) (v : BitVec (8 * n)) : Prop where
  stored : ∀ j, j < n → t.byteAt (a + j) = v.extractLsb' (8 * j) 8
  outside : ∀ b, b < a ∨ a + n ≤ b → t.byteAt b = s.byteAt b
  general : ∀ r, t.readX r = s.readX r
  vectors : ∀ r, t.readV r = s.readV r
  hi : t.hi = s.hi
  lo : t.lo = s.lo
  pc : t.pc = s.pc
  draws : t.freeDraws = s.freeDraws
  system : SystemKept s t

/-- Only `pc` changes. -/
structure MovesPc (s t : State) (p : Word) : Prop where
  pc : t.pc = p
  general : ∀ r, t.readX r = s.readX r
  vectors : ∀ r, t.readV r = s.readV r
  hi : t.hi = s.hi
  lo : t.lo = s.lo
  bytes : ∀ a, t.byteAt a = s.byteAt a
  draws : t.freeDraws = s.freeDraws
  system : SystemKept s t

/-- Only `pc` and register 31 change (43/R253). -/
structure Links (s t : State) (p link : Word) : Prop where
  pc : t.pc = p
  link : t.readX 31#5 = link
  others : ∀ r, r ≠ 31#5 → t.readX r = s.readX r
  vectors : ∀ r, t.readV r = s.readV r
  hi : t.hi = s.hi
  lo : t.lo = s.lo
  bytes : ∀ a, t.byteAt a = s.byteAt a
  draws : t.freeDraws = s.freeDraws
  system : SystemKept s t

/-- Registers of every kind, `pc` and the kernel bank are as before. -/
structure RegistersKept (s t : State) : Prop where
  general : ∀ r, t.readX r = s.readX r
  vectors : ∀ r, t.readV r = s.readV r
  hi : t.hi = s.hi
  lo : t.lo = s.lo
  pc : t.pc = s.pc
  kernel : t.kernel = s.kernel

/-- Registers of every kind, `pc` and the kernel bank are as before, but that register 2 reads as `w`: what
a service that returns a value does to the registers (46/R361). -/
structure ReturnsX2 (s t : State) (w : Word) : Prop where
  result : t.readX 2#5 = w
  others : ∀ r, r ≠ 2#5 → t.readX r = s.readX r
  vectors : ∀ r, t.readV r = s.readV r
  hi : t.hi = s.hi
  lo : t.lo = s.lo
  pc : t.pc = s.pc
  kernel : t.kernel = s.kernel

/-- Memory, the segment table and the descriptors are as before. -/
structure MemoryKept (s t : State) : Prop where
  bytes : ∀ a, t.byteAt a = s.byteAt a
  segments : t.segments = s.segments
  fds : t.fds = s.fds

/-- The machine is still running, with no free value drawn and no exit code changed. -/
structure RunKept (s t : State) : Prop where
  op : t.op = s.op
  exitCode : t.exitCode = s.exitCode
  draws : t.freeDraws = s.freeDraws

/-- The host has been asked once, and the answer lined up for the question, if any, is used up (46/R363, Log 5). -/
structure AnswerUsed (s t : State) : Prop where
  input : t.hostInput = s.hostInput.tail
  asked : t.hostAsked = s.hostAsked + 1

/-- The host has not been asked. -/
structure NotAsked (s t : State) : Prop where
  input : t.hostInput = s.hostInput
  asked : t.hostAsked = s.hostAsked

/-! ### Memory as the program sees it -/

/-- An access of `n` bytes at `a` passes its checks (20/R68). -/
def Accessible (s : State) (k : AccessKind) (a : Word) (n : Nat) : Prop := s.accessFault k a n = none

/-- The `n`-byte little-endian value `v` lies at `a` (20/R69). -/
def HoldsValue (s : State) (a n : Nat) (v : BitVec (8 * n)) : Prop :=
  ∀ j, j < n → v.extractLsb' (8 * j) 8 = s.byteAt (a + j)

/-- The bytes of `bs` lie at `a` and the addresses after it, modulo 2^64. -/
def HoldsBytes (s : State) (a : Word) (bs : List Byte) : Prop :=
  ∀ j (h : j < bs.length), s.byteAt (a + BitVec.ofNat 64 j).toNat = bs[j]

/-- Each of the `n` one-byte accesses at `a` and the addresses after it passes its checks (46/R364). -/
def BufferAccessible (s : State) (k : AccessKind) (a : Word) (n : Nat) : Prop :=
  ∀ j, j < n → Accessible s k (a + BitVec.ofNat 64 j) 1

/-- The `n` bytes at `a` and the addresses after it lie in the segment of the byte at `start` (20/R67). -/
def InSegmentOf (s : State) (start a : Word) (n : Nat) : Prop :=
  ∀ j, j < n → s.segments.lookup (a + BitVec.ofNat 64 j).toNat = s.segments.lookup start.toNat

/-- `bs` is the NUL-terminated string at `a`, with every byte up to the zero byte readable and in the segment of the
first (46/R364). -/
def HoldsString (s : State) (a : Word) (bs : List Byte) : Prop :=
  bs.length < 2 ^ 64 ∧ HoldsBytes s a (bs ++ [0#8]) ∧ BufferAccessible s .read a (bs.length + 1) ∧
    InSegmentOf s a a (bs.length + 1) ∧ 0#8 ∉ bs

/-- From `s` to `t` exactly the bytes `bs` were written at `a` and the addresses after it, modulo 2^64; the
registers, the segment table, the descriptors, the trace and the exit code are as before (46/R364). -/
structure BufferWritten (s t : State) (a : Word) (bs : List Byte) : Prop where
  holds : HoldsBytes t a bs
  outside : ∀ b, (∀ j, j < bs.length → b ≠ (a + BitVec.ofNat 64 j).toNat) → t.byteAt b = s.byteAt b
  segments : t.segments = s.segments
  fds : t.fds = s.fds
  trace : t.trace = s.trace
  exitCode : t.exitCode = s.exitCode
  draws : t.freeDraws = s.freeDraws

/-- The one-byte accesses at `a` and after it pass their checks up to number `j`, and that one raises `c`. -/
def BufferStopsAt (s : State) (k : AccessKind) (a : Word) (j : Nat) (c : Condition) : Prop :=
  BufferAccessible s k a j ∧ s.accessFault k (a + BitVec.ofNat 64 j) 1 = some c

/-- A string that begins at `start` cannot go on at `a`: the byte there fails its checks with condition `c`, or it is
readable but in another segment, which is `SegFault(Unmapped)` (46/R364, Log 30). -/
def ScanByteStops (s : State) (start a : Word) (c : Condition) : Prop :=
  s.accessFault .read a 1 = some c ∨
    (Accessible s .read a 1 ∧ s.segments.lookup a.toNat ≠ s.segments.lookup start.toNat ∧
      c = .segFault .unmapped a .read)

/-- The scan for the end of a string at `a` meets no zero byte in its segment before the byte that stops it with
condition `c` (46/R364). -/
def ScanStops (s : State) (a : Word) (c : Condition) : Prop :=
  ∃ j, j < 2 ^ 64 ∧ BufferAccessible s .read a j ∧ InSegmentOf s a a j ∧
    (∀ k, k < j → s.byteAt (a + BitVec.ofNat 64 k).toNat ≠ 0#8) ∧ ScanByteStops s a (a + BitVec.ofNat 64 j) c

/-- The executable's file images and the addresses they are loaded at (70/R441). -/
def Executable.images (i : Executable) : List (Word × ImageSegment) :=
  [(config.textBase, i.text), (config.dataBase, i.data), (i.ktextBase, i.ktext), (config.kdataBase, i.kdata)]

/-- What the spec asks of a loaded executable (70/R445): no segment overlaps another, no file image is longer
than its segment, and text and data end below the stack (20/R66). -/
structure Executable.Loads (i : Executable) (stackSize gap : Nat) : Prop where
  disjoint : (segmentsAtReset i stackSize gap).disjoint = true
  fits : ∀ b ∈ i.images, b.2.bytes.length ≤ b.2.memSize
  below : i.top < (stackSegment stackSize).min

/-! ### Loads and stores -/

/-- The load `i` of `n` bytes at `ea` into general register `d`: where the access passes its checks it
completes with the extended value, where it does not it raises the condition and changes nothing else
(42/R212, R214). -/
def LoadsValue (i : Instr) (s : State) (n : Nat) (ea : Word) (d : RegNum) (extend : BitVec (8 * n) → Word) : Prop :=
  (Accessible s .read ea n →
    ∃ t m, exec i s = .next t ∧ HoldsValue s ea.toNat n m ∧ WritesX s t d (extend m) 0) ∧
  ∀ c, s.accessFault .read ea n = some c → exec i s = .next { s with op := .faulted c }

/-- The store `i` of the `n`-byte value `v` at `ea`: where the access passes its checks it completes, where
it does not it raises the condition and changes nothing else (42/R213, R214). -/
def StoresValue (i : Instr) (s : State) (n : Nat) (ea : Word) (v : BitVec (8 * n)) : Prop :=
  (Accessible s .write ea n → ∃ t, exec i s = .next t ∧ WritesBytes s t ea.toNat n v) ∧
  ∀ c, s.accessFault .write ea n = some c → exec i s = .next { s with op := .faulted c }

/-! ### IEEE 754, as a relation between data and patterns (44/R273, 45/R320, R321) -/

/-- Magnitude pattern `m` is the one nearest `num / den` quanta: infinity from half way between the largest
finite magnitude and the next step on, else a finite one with none nearer, and with an even significand where
another is as near. -/
def NearestMagnitude (F : FloatFormat) (num den m : Nat) : Prop :=
  if (F.quanta (F.infPattern - 1) + F.quanta F.infPattern) * den ≤ 2 * num then m = F.infPattern
  else
    m < F.infPattern ∧ ∀ other, other < F.infPattern →
      |(F.quanta m * den : Int) - num| ≤ |(F.quanta other * den : Int) - num| ∧
      (|(F.quanta m * den : Int) - num| = |(F.quanta other * den : Int) - num| → other ≠ m → m % 2 = 0)

/-- The pattern is a NaN of the format. -/
def IsNan (F : FloatFormat) (p : Nat) : Prop := p < 2 * F.signBit ∧ F.infPattern < p % F.signBit

/-- The pattern of `num / den` quanta with this sign, correctly rounded to nearest. -/
def IsNearest (F : FloatFormat) (neg : Bool) (num den p : Nat) : Prop :=
  ∃ m, NearestMagnitude F num den m ∧ p = F.signed neg m

/-- `p` is a pattern of the IEEE sum of two data. -/
def IsSum (F : FloatFormat) (a b : Datum) (p : Nat) : Prop :=
  match a, b with
  | .nan, _ => IsNan F p
  | _, .nan => IsNan F p
  | .inf n, .inf m => if n = m then p = F.signed n F.infPattern else IsNan F p
  | .inf n, .fin _ _ => p = F.signed n F.infPattern
  | .fin _ _, .inf m => p = F.signed m F.infPattern
  | .fin n x, .fin m y =>
    let sum := signedQuanta n x + signedQuanta m y
    if sum = 0 then p = F.signed (n && m) 0 else IsNearest F (decide (sum < 0)) sum.natAbs 1 p

/-- `p` is a pattern of the IEEE product of two data. -/
def IsProduct (F : FloatFormat) (a b : Datum) (p : Nat) : Prop :=
  match a, b with
  | .nan, _ => IsNan F p
  | _, .nan => IsNan F p
  | .inf n, .inf m => p = F.signed (n != m) F.infPattern
  | .inf n, .fin m y => if y = 0 then IsNan F p else p = F.signed (n != m) F.infPattern
  | .fin n x, .inf m => if x = 0 then IsNan F p else p = F.signed (n != m) F.infPattern
  | .fin n x, .fin m y => IsNearest F (n != m) (x * y) (2 ^ F.unit) p

/-- `p` is a pattern of the IEEE quotient of two data. -/
def IsQuotient (F : FloatFormat) (a b : Datum) (p : Nat) : Prop :=
  match a, b with
  | .nan, _ => IsNan F p
  | _, .nan => IsNan F p
  | .inf _, .inf _ => IsNan F p
  | .inf n, .fin m _ => p = F.signed (n != m) F.infPattern
  | .fin n _, .inf m => p = F.signed (n != m) 0
  | .fin n x, .fin m y =>
    if y = 0 then (if x = 0 then IsNan F p else p = F.signed (n != m) F.infPattern)
    else IsNearest F (n != m) (x * 2 ^ F.unit) y p

/-- Where a datum that is no NaN stands on the line of the format: minus infinity, a signed number of quanta,
or infinity. -/
def Datum.place : Datum → Option (WithBot (WithTop Int))
  | .nan => none
  | .inf true => some ⊥
  | .inf false => some ((⊤ : WithTop Int) : WithBot (WithTop Int))
  | .fin n q => some (((signedQuanta n q : Int) : WithTop Int) : WithBot (WithTop Int))

/-- Neither datum is a NaN and their places are in the relation. -/
def Ordered (rel : WithBot (WithTop Int) → WithBot (WithTop Int) → Prop) (a b : Datum) : Prop :=
  ∃ x y, a.place = some x ∧ b.place = some y ∧ rel x y

/-- `p` is the finite pattern of the integer `i` under a rounding: the nearest, the largest not above, or the
smallest not below. The sign is the integer's, so that 0 is `+0`. -/
def IsConverted (F : FloatFormat) (mode : RoundMode) (i : Int) (p : Nat) : Prop :=
  ∃ m, m < F.infPattern ∧ p = F.signed (decide (i < 0)) m ∧
    match mode with
    | .nearest => NearestMagnitude F (i.natAbs * 2 ^ F.unit) 1 m
    | .floor =>
      signedQuanta (decide (i < 0)) (F.quanta m) ≤ i * 2 ^ F.unit ∧
      ∀ n other, other < F.infPattern → signedQuanta n (F.quanta other) ≤ i * 2 ^ F.unit →
        signedQuanta n (F.quanta other) ≤ signedQuanta (decide (i < 0)) (F.quanta m)
    | .ceil =>
      i * 2 ^ F.unit ≤ signedQuanta (decide (i < 0)) (F.quanta m) ∧
      ∀ n other, other < F.infPattern → i * 2 ^ F.unit ≤ signedQuanta n (F.quanta other) →
        signedQuanta (decide (i < 0)) (F.quanta m) ≤ signedQuanta n (F.quanta other)

/-- The value of a finite datum. -/
def finiteValue (F : FloatFormat) (neg : Bool) (q : Nat) : Rat := (signedQuanta neg q : Rat) / 2 ^ F.unit

/-- The integer `r` is the rational rounded: to the nearest with ties to even, down, or up. -/
def IsRounded (mode : RoundMode) (x : Rat) (r : Int) : Prop :=
  match mode with
  | .nearest => 2 * |(r : Rat) - x| ≤ 1 ∧ (2 * |(r : Rat) - x| = 1 → r % 2 = 0)
  | .floor => r = ⌊x⌋
  | .ceil => r = ⌈x⌉

/-! ### The invariant -/

/-- The descriptor table: numbers rise, and the three reserved descriptors are open as reset leaves them
(10/R37, 46/R380). -/
def FdTable.wf (t : FdTable) : Prop :=
  t.Pairwise (fun a b => a.1 < b.1) ∧ ∃ rest, t = fdsAtReset ++ rest

/-- What every step keeps: memory is in its canonical form; no two segments overlap (20/R61); no segment is
both writable and executable (20/R63); the heap ends at or below the start of the stack (20/R66, 46/R373);
the kernel bank reads zero (10/R31); the descriptor table is in form. -/
structure State.Inv (s : State) : Prop where
  memory : Memory.wf s.mem
  disjoint : s.segments.disjoint = true
  noWX : ∀ g ∈ s.segments.all, (g.w && g.x) = false
  heapBelowStack : s.brk ≤ s.segments.stack.min
  kernel : s.kernel = ⟨0, 0, 0, 0, 0, 0⟩
  descriptors : FdTable.wf s.fds

/-- The machine has stopped: Halted by an exit, or Faulted (10/R33). -/
def State.stopped (s : State) : Bool :=
  match s.op with
  | .ready => false
  | .halted => true
  | .faulted _ => true

end Sys2Proof.Machine
end

