-- ==== Sys2Proof/Certificates/Slice0/Obligations.lean ====
section
/-! DEFINITION. The statements for the provers. `exec` sees the state with `pc` already advanced (00/R10), so
that `s.pc` is `pc0 + 4` in a statement about `exec`. The fields a rule ignores are free. -/

open Sys2Proof Sys2Proof.Machine

/-- O1. Reset leaves every register, pc, the kernel bank, the state and the descriptors as the spec lists them. 10/R23, R26, R32 (with R28, R29, R37 and 70/R440 in part). -/
def Obligations.ResetRegisters : Prop :=
  ∀ (i : Executable) (stackSize gap : Nat) (oracle : List HostAnswer) (s : State),
    (∀ r, (hostReset i stackSize gap oracle s).readX r =
      if r = 28#5 then config.gpReset else if r = 29#5 then config.spReset
      else if r = 30#5 then config.fpReset else 0#64) ∧
    (∀ r, (hostReset i stackSize gap oracle s).readV r = 0#256) ∧
    (hostReset i stackSize gap oracle s).hi = 0#64 ∧ (hostReset i stackSize gap oracle s).lo = 0#64 ∧
    (hostReset i stackSize gap oracle s).pc = i.entry ∧
    (hostReset i stackSize gap oracle s).kernel = ⟨0#64, 0#64, 0#64, 0#64, 0#64, 0#64⟩ ∧
    (hostReset i stackSize gap oracle s).op = .ready ∧
    (hostReset i stackSize gap oracle s).fds = [(0, .readOnly), (1, .writeOnly), (2, .writeOnly)] ∧
    (hostReset i stackSize gap oracle s).trace = s.trace

/-- O2. Reset re-creates the six segments and their bytes from the executable. 70/R441 (with 20/R62, R66 and R75 in part). The bases are those of the configuration (Log 1). -/
def Obligations.ResetMemory : Prop :=
  ∀ (i : Executable) (stackSize gap : Nat) (oracle : List HostAnswer) (s : State), i.Loads stackSize gap →
    (∀ b ∈ i.images, ∀ j (h : j < b.2.bytes.length),
      (hostReset i stackSize gap oracle s).byteAt (b.1.toNat + j) = b.2.bytes[j]) ∧
    (∀ a, (∀ b ∈ i.images, a < b.1.toNat ∨ b.1.toNat + b.2.bytes.length ≤ a) →
      (hostReset i stackSize gap oracle s).byteAt a = 0#8) ∧
    (hostReset i stackSize gap oracle s).segments.text = ⟨config.textBase.toNat, i.text.memSize, true, false, true⟩ ∧
    (hostReset i stackSize gap oracle s).segments.data = ⟨config.dataBase.toNat, i.data.memSize, true, true, false⟩ ∧
    (hostReset i stackSize gap oracle s).segments.ktext = ⟨i.ktextBase.toNat, i.ktext.memSize, true, false, true⟩ ∧
    (hostReset i stackSize gap oracle s).segments.kdata = ⟨config.kdataBase.toNat, i.kdata.memSize, true, true, false⟩ ∧
    (stackSize ≤ config.stackEnd.toNat → (hostReset i stackSize gap oracle s).segments.stack =
      ⟨config.stackEnd.toNat - stackSize, stackSize, true, true, false⟩) ∧
    (∃ base, (hostReset i stackSize gap oracle s).segments.heap = ⟨base, 0, true, true, false⟩ ∧
      i.top ≤ base ∧ base < (hostReset i stackSize gap oracle s).segments.stack.min)

/-- O3. Clock changes nothing in Halted and Faulted, and Reset returns to Ready with the oracle it is given. 10/R34, 70/R445; the report of 10/R34 is outside the step (Log 4), the stream of answers is the model's form of the oracle (Log 5). -/
def Obligations.StoppedStays : Prop :=
  ∀ (s : State), s.stopped = true →
    step s = .next s ∧ ∀ i stackSize gap oracle,
      (hostReset i stackSize gap oracle s).op = .ready ∧ (hostReset i stackSize gap oracle s).hostInput = oracle

/-- O4. The invariant holds after every load and at reset. The invariant rests on 20/R61, R63, R66, 10/R31 and R37; the canonical form of memory is the model's (Log 10, Log 11), and the reset state is that of the empty executable (Log 1). -/
def Obligations.LoadedInvariant : Prop :=
  (∀ (i : Executable) (stackSize gap : Nat) (oracle : List HostAnswer), i.Loads stackSize gap →
    (State.load i stackSize gap oracle).Inv) ∧
    State.reset.Inv

/-- O5. Every step keeps the invariant. 20/R61, R63, R66, 10/R31, 46/R373, R380, for every state with the invariant. -/
def Obligations.StepKeepsInvariant : Prop :=
  ∀ s t : State, s.Inv → step s = .next t → t.Inv

/-- O6. An access is checked for a segment, then the flag, then the bounds. 20/R67, R68. -/
def Obligations.CheckOrder : Prop :=
  ∀ (s : State) (k : AccessKind) (a : Word) (n : Nat), 0 < n → s.segments.disjoint = true →
    ((∀ g ∈ s.segments.all, a.toNat < g.min ∨ g.min + g.size ≤ a.toNat) →
      s.accessFault k a n = some (.segFault .unmapped a k)) ∧
    ∀ g ∈ s.segments.all, g.min ≤ a.toNat → a.toNat < g.min + g.size →
      (g.allows k = false → s.accessFault k a n = some (.segFault .permission a k)) ∧
      (g.allows k = true → g.min + g.size < a.toNat + n ∨ 2 ^ 64 < a.toNat + n →
        s.accessFault k a n = some (.segFault .bounds a k)) ∧
      (g.allows k = true → a.toNat + n ≤ g.min + g.size → a.toNat + n ≤ 2 ^ 64 → Accessible s k a n)

/-- O7. A read or fetch gives the little-endian value at the address, or the condition. 20/R70, R72. -/
def Obligations.ReadAndFetch : Prop :=
  ∀ (s : State) (a : Word) (n : Nat),
    (Accessible s .read a n → ∃ v, s.memRead a n = .ok v ∧ HoldsValue s a.toNat n v) ∧
    (∀ c, s.accessFault .read a n = some c → s.memRead a n = .error c) ∧
    (Accessible s .fetch a 4 → ∃ w, s.memFetch a = .ok w ∧
      w = s.byteAt (a.toNat + 3) ++ s.byteAt (a.toNat + 2) ++ s.byteAt (a.toNat + 1) ++ s.byteAt a.toNat) ∧
    (∀ c, s.accessFault .fetch a 4 = some c → s.memFetch a = .error c)

/-- O8. A write changes exactly its bytes, or none where a check fails. 20/R71. The premise is part of the invariant of StepKeepsInvariant. -/
def Obligations.WriteChangesItsBytes : Prop :=
  ∀ (s : State) (a : Word) (n : Nat) (v : BitVec (8 * n)), Memory.wf s.mem →
    (Accessible s .write a n → ∃ t, s.memWrite a n v = .ok t ∧ WritesBytes s t a.toNat n v) ∧
    (∀ c, s.accessFault .write a n = some c → s.memWrite a n v = .error c)

/-- O9. A step runs the decoded instruction with pc advanced by 4. 30/R100 steps 1 to 7, 10/R25. -/
def Obligations.StepRunsDecoded : Prop :=
  ∀ (s : State) (w : InstrWord) (i : Instr), s.op = .ready → Accessible s .fetch s.pc 4 →
    HoldsValue s s.pc.toNat 4 w → decode w = .ok i → step s = exec i { s with pc := s.pc + 4#64 }

/-- O10. A failed fetch leaves pc, an illegal word advances it; nothing else changes. 30/R100, R116, 60/R413, R416. -/
def Obligations.FetchAndDecodeFaults : Prop :=
  ∀ (s : State), s.op = .ready →
    (∀ c, s.accessFault .fetch s.pc 4 = some c → step s = .next { s with op := .faulted c }) ∧
    (∀ (w : InstrWord) (e : DecodeReject), Accessible s .fetch s.pc 4 → HoldsValue s s.pc.toNat 4 w →
      decode w = .error e → step s = .next { s with pc := s.pc + 4#64, op := .faulted (.decodeError w) })

/-- O11. Decoding and encoding are inverse on every instruction and every legal word. 30/R120, with the words of 30/R112 to R115. That the two laws hold for ignored fields of any value too is the model's (Log 22, DEDUCED). -/
def Obligations.RoundTrip : Prop :=
  (∀ i : Instr, decode (encode i) = .ok i) ∧ (∀ (w : InstrWord) (i : Instr), decode w = .ok i → encode i = w) ∧
    ∀ i : Instr, OfFormat i.mnemonic (encode i)

/-- O12. A word decodes exactly where its opcode and func are in the table. 30/R102, R112 to R116. -/
def Obligations.LegalWords : Prop :=
  ∀ w : InstrWord, (∃ i, decode w = .ok i) ↔
    (w >>> 25).toNat ≤ 0x03 ∨
    ((w >>> 25).toNat = 0x08 ∧ ((w &&& 0x3FF#32).toNat ≤ 0x1B ∨
      (0x20 ≤ (w &&& 0x3FF#32).toNat ∧ (w &&& 0x3FF#32).toNat ≤ 0x21) ∨
      (0x30 ≤ (w &&& 0x3FF#32).toNat ∧ (w &&& 0x3FF#32).toNat ≤ 0x36) ∨
      (0x38 ≤ (w &&& 0x3FF#32).toNat ∧ (w &&& 0x3FF#32).toNat ≤ 0x3B))) ∨
    ((w >>> 25).toNat = 0x09 ∧ ((w &&& 0x3FF#32).toNat ≤ 0x13 ∨
      (0x20 ≤ (w &&& 0x3FF#32).toNat ∧ (w &&& 0x3FF#32).toNat ≤ 0x25) ∨
      (0x28 ≤ (w &&& 0x3FF#32).toNat ∧ (w &&& 0x3FF#32).toNat ≤ 0x2D) ∨
      (0x30 ≤ (w &&& 0x3FF#32).toNat ∧ (w &&& 0x3FF#32).toNat ≤ 0x37) ∨
      (0x40 ≤ (w &&& 0x3FF#32).toNat ∧ (w &&& 0x3FF#32).toNat ≤ 0x43) ∨
      (0x48 ≤ (w &&& 0x3FF#32).toNat ∧ (w &&& 0x3FF#32).toNat ≤ 0x4B) ∨
      (0x50 ≤ (w &&& 0x3FF#32).toNat ∧ (w &&& 0x3FF#32).toNat ≤ 0x53) ∨
      (0x58 ≤ (w &&& 0x3FF#32).toNat ∧ (w &&& 0x3FF#32).toNat ≤ 0x59))) ∨
    (0x10 ≤ (w >>> 25).toNat ∧ (w >>> 25).toNat ≤ 0x21) ∨
    (0x28 ≤ (w >>> 25).toNat ∧ (w >>> 25).toNat ≤ 0x2E) ∨
    (0x30 ≤ (w >>> 25).toNat ∧ (w >>> 25).toNat ≤ 0x35) ∨
    (0x38 ≤ (w >>> 25).toNat ∧ (w >>> 25).toNat ≤ 0x3D) ∨
    ((w >>> 25).toNat = 0x40 ∧ ((w >>> 16) &&& 0xF#32).toNat ≤ 3)

/-- O13. Some words of the spec decode to the instructions it writes beside them. A sanity statement: the examples of 40/R144, 41/R182, 42/R215, 43/R260, 44/R275, 45/R347, 41/R201, 46/R360. -/
def Obligations.DecodeExamples : Prop :=
  decode 0x10A5B000#32 = .ok (.add 10 11 12) ∧ decode 0x20A5FFFF#32 = .ok (.addi 10 11 0x7FFF) ∧
    decode 0x50A5FFFC#32 = .ok (.lb 10 11 0x7FFC) ∧ decode 0x04100004#32 = .ok (.j 0x100004) ∧
    decode 0x12110C00#32 = .ok (.vaddi32 1 2 3) ∧ decode 0x68A08020#32 = .ok (.vld 10 1 32) ∧
    decode 0x80A01234#32 = .ok (.li0 10 0x1234) ∧ decode 0x02000000#32 = .ok (.syscall 0)

/-- O14. add, sub, addw and subw write the wrapped sum or difference and nothing else. 40/R144 to R147. -/
def Obligations.AddAndSubtract : Prop :=
  ∀ (rs rt rd : RegNum) (s : State),
    (encode (.add rs rt rd) = wordR 0x10000000#32 rs rt rd 0x000#32 ∧
      ∃ t, exec (.add rs rt rd) s = .next t ∧ WritesX s t rd (s.readX rs + s.readX rt) 0) ∧
    (encode (.sub rs rt rd) = wordR 0x10000000#32 rs rt rd 0x001#32 ∧
      ∃ t, exec (.sub rs rt rd) s = .next t ∧ WritesX s t rd (s.readX rs - s.readX rt) 0) ∧
    (encode (.addw rs rt rd) = wordR 0x10000000#32 rs rt rd 0x002#32 ∧
      ∃ t, exec (.addw rs rt rd) s = .next t ∧ WritesX s t rd (((s.readX rs).extractLsb' 0 32 + (s.readX rt).extractLsb' 0 32).signExtend 64) 0) ∧
    (encode (.subw rs rt rd) = wordR 0x10000000#32 rs rt rd 0x003#32 ∧
      ∃ t, exec (.subw rs rt rd) s = .next t ∧ WritesX s t rd (((s.readX rs).extractLsb' 0 32 - (s.readX rt).extractLsb' 0 32).signExtend 64) 0)

/-- O15. and, or, xor, nor, slt and sltu write their result and nothing else. 40/R160 to R163, R170, R171. -/
def Obligations.LogicAndCompare : Prop :=
  ∀ (rs rt rd : RegNum) (s : State),
    (encode (.and rs rt rd) = wordR 0x10000000#32 rs rt rd 0x010#32 ∧
      ∃ t, exec (.and rs rt rd) s = .next t ∧ WritesX s t rd (s.readX rs &&& s.readX rt) 0) ∧
    (encode (.or rs rt rd) = wordR 0x10000000#32 rs rt rd 0x011#32 ∧
      ∃ t, exec (.or rs rt rd) s = .next t ∧ WritesX s t rd (s.readX rs ||| s.readX rt) 0) ∧
    (encode (.xor rs rt rd) = wordR 0x10000000#32 rs rt rd 0x012#32 ∧
      ∃ t, exec (.xor rs rt rd) s = .next t ∧ WritesX s t rd (s.readX rs ^^^ s.readX rt) 0) ∧
    (encode (.nor rs rt rd) = wordR 0x10000000#32 rs rt rd 0x013#32 ∧
      ∃ t, exec (.nor rs rt rd) s = .next t ∧ WritesX s t rd (~~~(s.readX rs ||| s.readX rt)) 0) ∧
    (encode (.slt rs rt rd) = wordR 0x10000000#32 rs rt rd 0x01A#32 ∧
      ∃ t, exec (.slt rs rt rd) s = .next t ∧ WritesX s t rd (if (s.readX rs).toInt < (s.readX rt).toInt then 1#64 else 0#64) 0) ∧
    (encode (.sltu rs rt rd) = wordR 0x10000000#32 rs rt rd 0x01B#32 ∧
      ∃ t, exec (.sltu rs rt rd) s = .next t ∧ WritesX s t rd (if (s.readX rs).toNat < (s.readX rt).toNat then 1#64 else 0#64) 0)

/-- O16. The six register shifts shift by the low bits of the count register. 40/R164 to R169. -/
def Obligations.RegisterShifts : Prop :=
  ∀ (rs rt rd : RegNum) (s : State),
    (encode (.sll rs rt rd) = wordR 0x10000000#32 rs rt rd 0x014#32 ∧
      ∃ t, exec (.sll rs rt rd) s = .next t ∧ WritesX s t rd (s.readX rs <<< ((s.readX rt).extractLsb' 0 6).toNat) 0) ∧
    (encode (.srl rs rt rd) = wordR 0x10000000#32 rs rt rd 0x015#32 ∧
      ∃ t, exec (.srl rs rt rd) s = .next t ∧ WritesX s t rd (s.readX rs >>> ((s.readX rt).extractLsb' 0 6).toNat) 0) ∧
    (encode (.sra rs rt rd) = wordR 0x10000000#32 rs rt rd 0x016#32 ∧
      ∃ t, exec (.sra rs rt rd) s = .next t ∧ WritesX s t rd ((s.readX rs).sshiftRight ((s.readX rt).extractLsb' 0 6).toNat) 0) ∧
    (encode (.sllw rs rt rd) = wordR 0x10000000#32 rs rt rd 0x017#32 ∧
      ∃ t, exec (.sllw rs rt rd) s = .next t ∧ WritesX s t rd ((((s.readX rs).extractLsb' 0 32) <<< ((s.readX rt).extractLsb' 0 5).toNat).signExtend 64) 0) ∧
    (encode (.srlw rs rt rd) = wordR 0x10000000#32 rs rt rd 0x018#32 ∧
      ∃ t, exec (.srlw rs rt rd) s = .next t ∧ WritesX s t rd ((((s.readX rs).extractLsb' 0 32) >>> ((s.readX rt).extractLsb' 0 5).toNat).signExtend 64) 0) ∧
    (encode (.sraw rs rt rd) = wordR 0x10000000#32 rs rt rd 0x019#32 ∧
      ∃ t, exec (.sraw rs rt rd) s = .next t ∧ WritesX s t rd ((((s.readX rs).extractLsb' 0 32).sshiftRight ((s.readX rt).extractLsb' 0 5).toNat).signExtend 64) 0)

/-- O17. The four multiplies write the exact product to hi and lo and nothing else. 40/R148 to R151; the rd field is free. -/
def Obligations.Multiply : Prop :=
  ∀ (rs rt rd : RegNum) (s : State),
    (encode (.mult rs rt rd) = wordR 0x10000000#32 rs rt rd 0x004#32 ∧
      ∃ t h l, exec (.mult rs rt rd) s = .next t ∧ WritesHiLo s t h l ∧
        (h ++ l : BitVec 128).toInt = (s.readX rs).toInt * (s.readX rt).toInt) ∧
    (encode (.multu rs rt rd) = wordR 0x10000000#32 rs rt rd 0x005#32 ∧
      ∃ t h l, exec (.multu rs rt rd) s = .next t ∧ WritesHiLo s t h l ∧
        (h ++ l : BitVec 128).toNat = (s.readX rs).toNat * (s.readX rt).toNat) ∧
    (encode (.multw rs rt rd) = wordR 0x10000000#32 rs rt rd 0x006#32 ∧
      ∃ t, ∃ p : BitVec 64, exec (.multw rs rt rd) s = .next t ∧
        WritesHiLo s t ((p.extractLsb' 32 32).signExtend 64) ((p.extractLsb' 0 32).signExtend 64) ∧
        p.toInt = ((s.readX rs).extractLsb' 0 32).toInt * ((s.readX rt).extractLsb' 0 32).toInt) ∧
    (encode (.multuw rs rt rd) = wordR 0x10000000#32 rs rt rd 0x007#32 ∧
      ∃ t, ∃ p : BitVec 64, exec (.multuw rs rt rd) s = .next t ∧
        WritesHiLo s t ((p.extractLsb' 32 32).signExtend 64) ((p.extractLsb' 0 32).signExtend 64) ∧
        p.toNat = ((s.readX rs).extractLsb' 0 32).toNat * ((s.readX rt).extractLsb' 0 32).toNat)

/-- O18. The four divides write quotient and remainder, or raise ArithFault with nothing written. 40/R152 to R155; the rd field is free. -/
def Obligations.Divide : Prop :=
  ∀ (rs rt rd : RegNum) (s : State),
    (encode (.div rs rt rd) = wordR 0x10000000#32 rs rt rd 0x008#32 ∧
      (¬((s.readX rt).toInt = 0 ∨ ((s.readX rs).toInt = -2 ^ 63 ∧ (s.readX rt).toInt = -1)) →
        ∃ t, ∃ q r : BitVec 64, exec (.div rs rt rd) s = .next t ∧ WritesHiLo s t r q ∧
          q.toInt = Int.tdiv (s.readX rs).toInt (s.readX rt).toInt ∧
          r.toInt = (s.readX rs).toInt - Int.tdiv (s.readX rs).toInt (s.readX rt).toInt * (s.readX rt).toInt) ∧
      ((s.readX rt).toInt = 0 ∨ ((s.readX rs).toInt = -2 ^ 63 ∧ (s.readX rt).toInt = -1) →
        exec (.div rs rt rd) s = .next { s with op := .faulted (.arithFault (encode (.div rs rt rd))) })) ∧
    (encode (.divu rs rt rd) = wordR 0x10000000#32 rs rt rd 0x009#32 ∧
      ((s.readX rt).toNat ≠ 0 →
        ∃ t, ∃ q r : BitVec 64, exec (.divu rs rt rd) s = .next t ∧ WritesHiLo s t r q ∧
          q.toNat = (s.readX rs).toNat / (s.readX rt).toNat ∧ r.toNat = (s.readX rs).toNat % (s.readX rt).toNat) ∧
      ((s.readX rt).toNat = 0 → exec (.divu rs rt rd) s = .next { s with op := .faulted (.arithFault (encode (.divu rs rt rd))) })) ∧
    (encode (.divw rs rt rd) = wordR 0x10000000#32 rs rt rd 0x00A#32 ∧
      (¬(((s.readX rt).extractLsb' 0 32).toInt = 0 ∨ (((s.readX rs).extractLsb' 0 32).toInt = -2 ^ 31 ∧ ((s.readX rt).extractLsb' 0 32).toInt = -1)) →
        ∃ t, ∃ q r : BitVec 32, exec (.divw rs rt rd) s = .next t ∧ WritesHiLo s t (r.signExtend 64) (q.signExtend 64) ∧
          q.toInt = Int.tdiv ((s.readX rs).extractLsb' 0 32).toInt ((s.readX rt).extractLsb' 0 32).toInt ∧
          r.toInt = ((s.readX rs).extractLsb' 0 32).toInt - Int.tdiv ((s.readX rs).extractLsb' 0 32).toInt ((s.readX rt).extractLsb' 0 32).toInt * ((s.readX rt).extractLsb' 0 32).toInt) ∧
      (((s.readX rt).extractLsb' 0 32).toInt = 0 ∨ (((s.readX rs).extractLsb' 0 32).toInt = -2 ^ 31 ∧ ((s.readX rt).extractLsb' 0 32).toInt = -1) →
        exec (.divw rs rt rd) s = .next { s with op := .faulted (.arithFault (encode (.divw rs rt rd))) })) ∧
    (encode (.divuw rs rt rd) = wordR 0x10000000#32 rs rt rd 0x00B#32 ∧
      (((s.readX rt).extractLsb' 0 32).toNat ≠ 0 →
        ∃ t, ∃ q r : BitVec 32, exec (.divuw rs rt rd) s = .next t ∧ WritesHiLo s t (r.signExtend 64) (q.signExtend 64) ∧
          q.toNat = ((s.readX rs).extractLsb' 0 32).toNat / ((s.readX rt).extractLsb' 0 32).toNat ∧ r.toNat = ((s.readX rs).extractLsb' 0 32).toNat % ((s.readX rt).extractLsb' 0 32).toNat) ∧
      (((s.readX rt).extractLsb' 0 32).toNat = 0 → exec (.divuw rs rt rd) s = .next { s with op := .faulted (.arithFault (encode (.divuw rs rt rd))) }))

/-- O19. mfhi, mflo, mthi and mtlo move one register and change nothing else. 40/R156 to R159; the ignored fields are free. -/
def Obligations.HiLoMoves : Prop :=
  ∀ (rs rt rd : RegNum) (s : State),
    (encode (.mfhi rs rt rd) = wordR 0x10000000#32 rs rt rd 0x00C#32 ∧
      ∃ t, exec (.mfhi rs rt rd) s = .next t ∧ WritesX s t rd (s.hi) 0) ∧
    (encode (.mflo rs rt rd) = wordR 0x10000000#32 rs rt rd 0x00D#32 ∧
      ∃ t, exec (.mflo rs rt rd) s = .next t ∧ WritesX s t rd (s.lo) 0) ∧
    (encode (.mthi rs rt rd) = wordR 0x10000000#32 rs rt rd 0x00E#32 ∧
      ∃ t, exec (.mthi rs rt rd) s = .next t ∧ WritesHiLo s t (s.readX rs) s.lo) ∧
    (encode (.mtlo rs rt rd) = wordR 0x10000000#32 rs rt rd 0x00F#32 ∧
      ∃ t, exec (.mtlo rs rt rd) s = .next t ∧ WritesHiLo s t s.hi (s.readX rs))

/-- O20. The immediate adds and logic instructions write rt from rs and the extended immediate. 41/R182 to R191. -/
def Obligations.ImmediateArithmetic : Prop :=
  ∀ (rs rt : RegNum) (imm : BitVec 15) (s : State),
    (encode (.addi rs rt imm) = wordI 0x10#32 rs rt imm ∧
      ∃ t, exec (.addi rs rt imm) s = .next t ∧ WritesX s t rt (s.readX rs + imm.signExtend 64) 0) ∧
    (encode (.addiu rs rt imm) = wordI 0x11#32 rs rt imm ∧
      ∃ t, exec (.addiu rs rt imm) s = .next t ∧ WritesX s t rt (s.readX rs + imm.setWidth 64) 0) ∧
    (encode (.addwi rs rt imm) = wordI 0x12#32 rs rt imm ∧
      ∃ t, exec (.addwi rs rt imm) s = .next t ∧ WritesX s t rt (((s.readX rs).extractLsb' 0 32 + imm.signExtend 32).signExtend 64) 0) ∧
    (encode (.addwiu rs rt imm) = wordI 0x13#32 rs rt imm ∧
      ∃ t, exec (.addwiu rs rt imm) s = .next t ∧ WritesX s t rt (((s.readX rs).extractLsb' 0 32 + imm.setWidth 32).signExtend 64) 0) ∧
    (encode (.andi rs rt imm) = wordI 0x14#32 rs rt imm ∧
      ∃ t, exec (.andi rs rt imm) s = .next t ∧ WritesX s t rt (s.readX rs &&& imm.signExtend 64) 0) ∧
    (encode (.andiu rs rt imm) = wordI 0x15#32 rs rt imm ∧
      ∃ t, exec (.andiu rs rt imm) s = .next t ∧ WritesX s t rt (s.readX rs &&& imm.setWidth 64) 0) ∧
    (encode (.ori rs rt imm) = wordI 0x16#32 rs rt imm ∧
      ∃ t, exec (.ori rs rt imm) s = .next t ∧ WritesX s t rt (s.readX rs ||| imm.signExtend 64) 0) ∧
    (encode (.oriu rs rt imm) = wordI 0x17#32 rs rt imm ∧
      ∃ t, exec (.oriu rs rt imm) s = .next t ∧ WritesX s t rt (s.readX rs ||| imm.setWidth 64) 0) ∧
    (encode (.xori rs rt imm) = wordI 0x18#32 rs rt imm ∧
      ∃ t, exec (.xori rs rt imm) s = .next t ∧ WritesX s t rt (s.readX rs ^^^ imm.signExtend 64) 0) ∧
    (encode (.xoriu rs rt imm) = wordI 0x19#32 rs rt imm ∧
      ∃ t, exec (.xoriu rs rt imm) s = .next t ∧ WritesX s t rt (s.readX rs ^^^ imm.setWidth 64) 0)

/-- O21. The immediate compares and shifts write rt from rs and the immediate. 41/R192 to R199. -/
def Obligations.ImmediateCompareAndShift : Prop :=
  ∀ (rs rt : RegNum) (imm : BitVec 15) (s : State),
    (encode (.slti rs rt imm) = wordI 0x1A#32 rs rt imm ∧
      ∃ t, exec (.slti rs rt imm) s = .next t ∧ WritesX s t rt (if (s.readX rs).toInt < imm.toInt then 1#64 else 0#64) 0) ∧
    (encode (.sltiu rs rt imm) = wordI 0x1B#32 rs rt imm ∧
      ∃ t, exec (.sltiu rs rt imm) s = .next t ∧ WritesX s t rt (if (s.readX rs).toNat < imm.toNat then 1#64 else 0#64) 0) ∧
    (encode (.slli rs rt imm) = wordI 0x1C#32 rs rt imm ∧
      ∃ t, exec (.slli rs rt imm) s = .next t ∧ WritesX s t rt (s.readX rs <<< (imm.extractLsb' 0 6).toNat) 0) ∧
    (encode (.srli rs rt imm) = wordI 0x1D#32 rs rt imm ∧
      ∃ t, exec (.srli rs rt imm) s = .next t ∧ WritesX s t rt (s.readX rs >>> (imm.extractLsb' 0 6).toNat) 0) ∧
    (encode (.srai rs rt imm) = wordI 0x1E#32 rs rt imm ∧
      ∃ t, exec (.srai rs rt imm) s = .next t ∧ WritesX s t rt ((s.readX rs).sshiftRight (imm.extractLsb' 0 6).toNat) 0) ∧
    (encode (.sllwi rs rt imm) = wordI 0x1F#32 rs rt imm ∧
      ∃ t, exec (.sllwi rs rt imm) s = .next t ∧ WritesX s t rt ((((s.readX rs).extractLsb' 0 32) <<< (imm.extractLsb' 0 5).toNat).signExtend 64) 0) ∧
    (encode (.srlwi rs rt imm) = wordI 0x20#32 rs rt imm ∧
      ∃ t, exec (.srlwi rs rt imm) s = .next t ∧ WritesX s t rt ((((s.readX rs).extractLsb' 0 32) >>> (imm.extractLsb' 0 5).toNat).signExtend 64) 0) ∧
    (encode (.srawi rs rt imm) = wordI 0x21#32 rs rt imm ∧
      ∃ t, exec (.srawi rs rt imm) s = .next t ∧ WritesX s t rt ((((s.readX rs).extractLsb' 0 32).sshiftRight (imm.extractLsb' 0 5).toNat).signExtend 64) 0)

/-- O22. li.0 to li.3 replace one 16-bit slice of rd and nothing else. 41/R201 to R204. -/
def Obligations.SliceLoads : Prop :=
  ∀ (rd : RegNum) (imm : BitVec 16) (s : State),
    (encode (.li0 rd imm) = wordEI rd 0#32 imm ∧
      ∃ t, exec (.li0 rd imm) s = .next t ∧ WritesX s t rd ((s.readX rd).extractLsb' 16 48 ++ imm) 0) ∧
    (encode (.li1 rd imm) = wordEI rd 1#32 imm ∧
      ∃ t, exec (.li1 rd imm) s = .next t ∧ WritesX s t rd ((s.readX rd).extractLsb' 32 32 ++ imm ++ (s.readX rd).extractLsb' 0 16) 0) ∧
    (encode (.li2 rd imm) = wordEI rd 2#32 imm ∧
      ∃ t, exec (.li2 rd imm) s = .next t ∧ WritesX s t rd ((s.readX rd).extractLsb' 48 16 ++ imm ++ (s.readX rd).extractLsb' 0 32) 0) ∧
    (encode (.li3 rd imm) = wordEI rd 3#32 imm ∧
      ∃ t, exec (.li3 rd imm) s = .next t ∧ WritesX s t rd (imm ++ (s.readX rd).extractLsb' 0 48) 0)

/-- O23. The four slice loads of an address, run in turn, leave the address in rd. 41/R200, 47/R399, 30/R110. -/
def Obligations.LoadAddress : Prop :=
  ∀ (rd : RegNum) (a : Word) (s : State), ∃ t0 t1 t2 t3,
    exec (.li0 rd (a.extractLsb' 0 16)) s = .next t0 ∧ exec (.li1 rd (a.extractLsb' 16 16)) t0 = .next t1 ∧
    exec (.li2 rd (a.extractLsb' 32 16)) t1 = .next t2 ∧ exec (.li3 rd (a.extractLsb' 48 16)) t2 = .next t3 ∧
    WritesX s t3 rd a 0

/-- O24. The seven immediate-offset loads load the value at base plus offset, or raise SegFault. 42/R215 to R221. -/
def Obligations.LoadsImmediate : Prop :=
  ∀ (rs rt : RegNum) (imm : BitVec 15) (s : State),
    (encode (.lb rs rt imm) = wordI 0x28#32 rs rt imm ∧
      LoadsValue (.lb rs rt imm) s 1 (s.readX rs + imm.signExtend 64) rt fun m => m.signExtend 64) ∧
    (encode (.lbu rs rt imm) = wordI 0x29#32 rs rt imm ∧
      LoadsValue (.lbu rs rt imm) s 1 (s.readX rs + imm.signExtend 64) rt fun m => m.setWidth 64) ∧
    (encode (.lh rs rt imm) = wordI 0x2A#32 rs rt imm ∧
      LoadsValue (.lh rs rt imm) s 2 (s.readX rs + imm.signExtend 64) rt fun m => m.signExtend 64) ∧
    (encode (.lhu rs rt imm) = wordI 0x2B#32 rs rt imm ∧
      LoadsValue (.lhu rs rt imm) s 2 (s.readX rs + imm.signExtend 64) rt fun m => m.setWidth 64) ∧
    (encode (.lw rs rt imm) = wordI 0x2C#32 rs rt imm ∧
      LoadsValue (.lw rs rt imm) s 4 (s.readX rs + imm.signExtend 64) rt fun m => m.signExtend 64) ∧
    (encode (.lwu rs rt imm) = wordI 0x2D#32 rs rt imm ∧
      LoadsValue (.lwu rs rt imm) s 4 (s.readX rs + imm.signExtend 64) rt fun m => m.setWidth 64) ∧
    (encode (.ld rs rt imm) = wordI 0x2E#32 rs rt imm ∧
      LoadsValue (.ld rs rt imm) s 8 (s.readX rs + imm.signExtend 64) rt fun m => m)

/-- O25. The seven scaled loads load the value at base plus index times size, or raise SegFault. 42/R226 to R232. -/
def Obligations.LoadsScaled : Prop :=
  ∀ (rs rt rd : RegNum) (s : State),
    (encode (.lbx rs rt rd) = wordR 0x10000000#32 rs rt rd 0x030#32 ∧
      LoadsValue (.lbx rs rt rd) s 1 (s.readX rs + s.readX rt) rd fun m => m.signExtend 64) ∧
    (encode (.lbux rs rt rd) = wordR 0x10000000#32 rs rt rd 0x031#32 ∧
      LoadsValue (.lbux rs rt rd) s 1 (s.readX rs + s.readX rt) rd fun m => m.setWidth 64) ∧
    (encode (.lhx rs rt rd) = wordR 0x10000000#32 rs rt rd 0x032#32 ∧
      LoadsValue (.lhx rs rt rd) s 2 (s.readX rs + (s.readX rt <<< 1)) rd fun m => m.signExtend 64) ∧
    (encode (.lhux rs rt rd) = wordR 0x10000000#32 rs rt rd 0x033#32 ∧
      LoadsValue (.lhux rs rt rd) s 2 (s.readX rs + (s.readX rt <<< 1)) rd fun m => m.setWidth 64) ∧
    (encode (.lwx rs rt rd) = wordR 0x10000000#32 rs rt rd 0x034#32 ∧
      LoadsValue (.lwx rs rt rd) s 4 (s.readX rs + (s.readX rt <<< 2)) rd fun m => m.signExtend 64) ∧
    (encode (.lwux rs rt rd) = wordR 0x10000000#32 rs rt rd 0x035#32 ∧
      LoadsValue (.lwux rs rt rd) s 4 (s.readX rs + (s.readX rt <<< 2)) rd fun m => m.setWidth 64) ∧
    (encode (.ldx rs rt rd) = wordR 0x10000000#32 rs rt rd 0x036#32 ∧
      LoadsValue (.ldx rs rt rd) s 8 (s.readX rs + (s.readX rt <<< 3)) rd fun m => m)

/-- O26. The eight stores store the low bytes of a register and nothing else, or raise SegFault. 42/R222 to R225, R233 to R236. The premise is part of the invariant of StepKeepsInvariant. -/
def Obligations.Stores : Prop :=
  ∀ (rs rt rd : RegNum) (imm : BitVec 15) (s : State), Memory.wf s.mem →
    (encode (.sb rs rt imm) = wordI 0x30#32 rs rt imm ∧
      StoresValue (.sb rs rt imm) s 1 (s.readX rs + imm.signExtend 64) ((s.readX rt).setWidth 8)) ∧
    (encode (.sh rs rt imm) = wordI 0x31#32 rs rt imm ∧
      StoresValue (.sh rs rt imm) s 2 (s.readX rs + imm.signExtend 64) ((s.readX rt).setWidth 16)) ∧
    (encode (.sw rs rt imm) = wordI 0x32#32 rs rt imm ∧
      StoresValue (.sw rs rt imm) s 4 (s.readX rs + imm.signExtend 64) ((s.readX rt).setWidth 32)) ∧
    (encode (.sd rs rt imm) = wordI 0x33#32 rs rt imm ∧
      StoresValue (.sd rs rt imm) s 8 (s.readX rs + imm.signExtend 64) ((s.readX rt).setWidth 64)) ∧
    (encode (.sbx rs rt rd) = wordR 0x10000000#32 rs rt rd 0x038#32 ∧
      StoresValue (.sbx rs rt rd) s 1 (s.readX rs + s.readX rt) ((s.readX rd).setWidth 8)) ∧
    (encode (.shx rs rt rd) = wordR 0x10000000#32 rs rt rd 0x039#32 ∧
      StoresValue (.shx rs rt rd) s 2 (s.readX rs + (s.readX rt <<< 1)) ((s.readX rd).setWidth 16)) ∧
    (encode (.swx rs rt rd) = wordR 0x10000000#32 rs rt rd 0x03A#32 ∧
      StoresValue (.swx rs rt rd) s 4 (s.readX rs + (s.readX rt <<< 2)) ((s.readX rd).setWidth 32)) ∧
    (encode (.sdx rs rt rd) = wordR 0x10000000#32 rs rt rd 0x03B#32 ∧
      StoresValue (.sdx rs rt rd) s 8 (s.readX rs + (s.readX rt <<< 3)) ((s.readX rd).setWidth 64))

/-- O27. The six branches move pc by four times the signed offset where their relation holds. 43/R251, R254 to R259; s.pc is the advanced pc (StepRunsDecoded). -/
def Obligations.Branches : Prop :=
  ∀ (rs rt : RegNum) (imm : BitVec 15) (s : State),
    (encode (.beq rs rt imm) = wordI 0x38#32 rs rt imm ∧
      ∃ t, exec (.beq rs rt imm) s = .next t ∧
        MovesPc s t (if s.readX rs = s.readX rt then s.pc + BitVec.ofInt 64 (4 * imm.toInt) else s.pc)) ∧
    (encode (.bne rs rt imm) = wordI 0x39#32 rs rt imm ∧
      ∃ t, exec (.bne rs rt imm) s = .next t ∧
        MovesPc s t (if s.readX rs ≠ s.readX rt then s.pc + BitVec.ofInt 64 (4 * imm.toInt) else s.pc)) ∧
    (encode (.blt rs rt imm) = wordI 0x3A#32 rs rt imm ∧
      ∃ t, exec (.blt rs rt imm) s = .next t ∧
        MovesPc s t (if (s.readX rs).toInt < (s.readX rt).toInt then s.pc + BitVec.ofInt 64 (4 * imm.toInt) else s.pc)) ∧
    (encode (.bge rs rt imm) = wordI 0x3B#32 rs rt imm ∧
      ∃ t, exec (.bge rs rt imm) s = .next t ∧
        MovesPc s t (if (s.readX rt).toInt ≤ (s.readX rs).toInt then s.pc + BitVec.ofInt 64 (4 * imm.toInt) else s.pc)) ∧
    (encode (.bltu rs rt imm) = wordI 0x3C#32 rs rt imm ∧
      ∃ t, exec (.bltu rs rt imm) s = .next t ∧
        MovesPc s t (if (s.readX rs).toNat < (s.readX rt).toNat then s.pc + BitVec.ofInt 64 (4 * imm.toInt) else s.pc)) ∧
    (encode (.bgeu rs rt imm) = wordI 0x3D#32 rs rt imm ∧
      ∃ t, exec (.bgeu rs rt imm) s = .next t ∧
        MovesPc s t (if (s.readX rt).toNat ≤ (s.readX rs).toNat then s.pc + BitVec.ofInt 64 (4 * imm.toInt) else s.pc))

/-- O28. The jumps go to their target, the linking ones leave the return address in register 31, nop does nothing. 43/R252, R260 to R264; s.pc is the advanced pc (StepRunsDecoded). -/
def Obligations.JumpsAndNop : Prop :=
  ∀ (addr : BitVec 25) (rs rt rd : RegNum) (s : State),
    (encode (.j addr) = wordJ 0x04000000#32 addr ∧
      ∃ t, exec (.j addr) s = .next t ∧ MovesPc s t (s.pc.extractLsb' 27 37 ++ addr ++ 0#2)) ∧
    (encode (.jal addr) = wordJ 0x06000000#32 addr ∧
      ∃ t, exec (.jal addr) s = .next t ∧ Links s t (s.pc.extractLsb' 27 37 ++ addr ++ 0#2) s.pc) ∧
    (encode (.jr rs rt rd) = wordR 0x10000000#32 rs rt rd 0x020#32 ∧
      ∃ t, exec (.jr rs rt rd) s = .next t ∧ MovesPc s t (s.readX rs)) ∧
    (encode (.jalr rs rt rd) = wordR 0x10000000#32 rs rt rd 0x021#32 ∧
      ∃ t, exec (.jalr rs rt rd) s = .next t ∧ Links s t (s.readX rs) s.pc) ∧
    (encode (.nop addr) = wordJ 0x00000000#32 addr ∧
      ∃ t, exec (.nop addr) s = .next t ∧ MovesPc s t s.pc)

/-- O29. The integer vector adds, subtracts and multiplies wrap lane by lane. 44/R275, R276, R279, R280, R283, R284. -/
def Obligations.IntegerLanes : Prop :=
  ∀ (rs rt rd : RegNum) (s : State),
    (encode (.vaddi32 rs rt rd) = wordR 0x12000000#32 rs rt rd 0x000#32 ∧
      ∃ t, exec (.vaddi32 rs rt rd) s = .next t ∧
        WritesLanes 32 s t rd (fun k => lane 32 k (s.readV rs) + lane 32 k (s.readV rt)) 0) ∧
    (encode (.vaddi64 rs rt rd) = wordR 0x12000000#32 rs rt rd 0x001#32 ∧
      ∃ t, exec (.vaddi64 rs rt rd) s = .next t ∧
        WritesLanes 64 s t rd (fun k => lane 64 k (s.readV rs) + lane 64 k (s.readV rt)) 0) ∧
    (encode (.vsubi32 rs rt rd) = wordR 0x12000000#32 rs rt rd 0x004#32 ∧
      ∃ t, exec (.vsubi32 rs rt rd) s = .next t ∧
        WritesLanes 32 s t rd (fun k => lane 32 k (s.readV rs) - lane 32 k (s.readV rt)) 0) ∧
    (encode (.vsubi64 rs rt rd) = wordR 0x12000000#32 rs rt rd 0x005#32 ∧
      ∃ t, exec (.vsubi64 rs rt rd) s = .next t ∧
        WritesLanes 64 s t rd (fun k => lane 64 k (s.readV rs) - lane 64 k (s.readV rt)) 0) ∧
    (encode (.vmuli32 rs rt rd) = wordR 0x12000000#32 rs rt rd 0x008#32 ∧
      ∃ t, exec (.vmuli32 rs rt rd) s = .next t ∧
        WritesLanes 32 s t rd (fun k => lane 32 k (s.readV rs) * lane 32 k (s.readV rt)) 0) ∧
    (encode (.vmuli64 rs rt rd) = wordR 0x12000000#32 rs rt rd 0x009#32 ∧
      ∃ t, exec (.vmuli64 rs rt rd) s = .next t ∧
        WritesLanes 64 s t rd (fun k => lane 64 k (s.readV rs) * lane 64 k (s.readV rt)) 0)

/-- O30. The four vector logic instructions act on all 256 bits. 44/R291 to R294. -/
def Obligations.VectorLogic : Prop :=
  ∀ (rs rt rd : RegNum) (s : State),
    (encode (.vand rs rt rd) = wordR 0x12000000#32 rs rt rd 0x010#32 ∧
      ∃ t, exec (.vand rs rt rd) s = .next t ∧ WritesV s t rd (s.readV rs &&& s.readV rt) 0) ∧
    (encode (.vor rs rt rd) = wordR 0x12000000#32 rs rt rd 0x011#32 ∧
      ∃ t, exec (.vor rs rt rd) s = .next t ∧ WritesV s t rd (s.readV rs ||| s.readV rt) 0) ∧
    (encode (.vxor rs rt rd) = wordR 0x12000000#32 rs rt rd 0x012#32 ∧
      ∃ t, exec (.vxor rs rt rd) s = .next t ∧ WritesV s t rd (s.readV rs ^^^ s.readV rt) 0) ∧
    (encode (.vnor rs rt rd) = wordR 0x12000000#32 rs rt rd 0x013#32 ∧
      ∃ t, exec (.vnor rs rt rd) s = .next t ∧ WritesV s t rd (~~~(s.readV rs ||| s.readV rt)) 0)

/-- O31. The vector shifts by a general register shift every lane by its low bits. 44/R295 to R300. -/
def Obligations.ShiftsByScalar : Prop :=
  ∀ (rs rt rd : RegNum) (s : State),
    (encode (.vsll32 rs rt rd) = wordR 0x12000000#32 rs rt rd 0x020#32 ∧
      ∃ t, exec (.vsll32 rs rt rd) s = .next t ∧
        WritesLanes 32 s t rd (fun k => lane 32 k (s.readV rs) <<< ((s.readX rt).extractLsb' 0 5).toNat) 0) ∧
    (encode (.vsll64 rs rt rd) = wordR 0x12000000#32 rs rt rd 0x021#32 ∧
      ∃ t, exec (.vsll64 rs rt rd) s = .next t ∧
        WritesLanes 64 s t rd (fun k => lane 64 k (s.readV rs) <<< ((s.readX rt).extractLsb' 0 6).toNat) 0) ∧
    (encode (.vsrl32 rs rt rd) = wordR 0x12000000#32 rs rt rd 0x022#32 ∧
      ∃ t, exec (.vsrl32 rs rt rd) s = .next t ∧
        WritesLanes 32 s t rd (fun k => lane 32 k (s.readV rs) >>> ((s.readX rt).extractLsb' 0 5).toNat) 0) ∧
    (encode (.vsrl64 rs rt rd) = wordR 0x12000000#32 rs rt rd 0x023#32 ∧
      ∃ t, exec (.vsrl64 rs rt rd) s = .next t ∧
        WritesLanes 64 s t rd (fun k => lane 64 k (s.readV rs) >>> ((s.readX rt).extractLsb' 0 6).toNat) 0) ∧
    (encode (.vsra32 rs rt rd) = wordR 0x12000000#32 rs rt rd 0x024#32 ∧
      ∃ t, exec (.vsra32 rs rt rd) s = .next t ∧
        WritesLanes 32 s t rd (fun k => (lane 32 k (s.readV rs)).sshiftRight ((s.readX rt).extractLsb' 0 5).toNat) 0) ∧
    (encode (.vsra64 rs rt rd) = wordR 0x12000000#32 rs rt rd 0x025#32 ∧
      ∃ t, exec (.vsra64 rs rt rd) s = .next t ∧
        WritesLanes 64 s t rd (fun k => (lane 64 k (s.readV rs)).sshiftRight ((s.readX rt).extractLsb' 0 6).toNat) 0)

/-- O32. The vector shifts by a vector shift each lane by the low bits of its own count lane. 44/R301 to R306. -/
def Obligations.ShiftsByVector : Prop :=
  ∀ (rs rt rd : RegNum) (s : State),
    (encode (.vsllv32 rs rt rd) = wordR 0x12000000#32 rs rt rd 0x028#32 ∧
      ∃ t, exec (.vsllv32 rs rt rd) s = .next t ∧
        WritesLanes 32 s t rd (fun k => lane 32 k (s.readV rs) <<< ((lane 32 k (s.readV rt)).extractLsb' 0 5).toNat) 0) ∧
    (encode (.vsllv64 rs rt rd) = wordR 0x12000000#32 rs rt rd 0x029#32 ∧
      ∃ t, exec (.vsllv64 rs rt rd) s = .next t ∧
        WritesLanes 64 s t rd (fun k => lane 64 k (s.readV rs) <<< ((lane 64 k (s.readV rt)).extractLsb' 0 6).toNat) 0) ∧
    (encode (.vsrlv32 rs rt rd) = wordR 0x12000000#32 rs rt rd 0x02A#32 ∧
      ∃ t, exec (.vsrlv32 rs rt rd) s = .next t ∧
        WritesLanes 32 s t rd (fun k => lane 32 k (s.readV rs) >>> ((lane 32 k (s.readV rt)).extractLsb' 0 5).toNat) 0) ∧
    (encode (.vsrlv64 rs rt rd) = wordR 0x12000000#32 rs rt rd 0x02B#32 ∧
      ∃ t, exec (.vsrlv64 rs rt rd) s = .next t ∧
        WritesLanes 64 s t rd (fun k => lane 64 k (s.readV rs) >>> ((lane 64 k (s.readV rt)).extractLsb' 0 6).toNat) 0) ∧
    (encode (.vsrav32 rs rt rd) = wordR 0x12000000#32 rs rt rd 0x02C#32 ∧
      ∃ t, exec (.vsrav32 rs rt rd) s = .next t ∧
        WritesLanes 32 s t rd (fun k => (lane 32 k (s.readV rs)).sshiftRight ((lane 32 k (s.readV rt)).extractLsb' 0 5).toNat) 0) ∧
    (encode (.vsrav64 rs rt rd) = wordR 0x12000000#32 rs rt rd 0x02D#32 ∧
      ∃ t, exec (.vsrav64 rs rt rd) s = .next t ∧
        WritesLanes 64 s t rd (fun k => (lane 64 k (s.readV rs)).sshiftRight ((lane 64 k (s.readV rt)).extractLsb' 0 6).toNat) 0)

/-- O33. vdivi32 and vdivi64 divide every lane, or raise ArithFault with no lane written. 44/R287, R288. -/
def Obligations.VectorDivide : Prop :=
  ∀ (rs rt rd : RegNum) (s : State),
    (encode (.vdivi32 rs rt rd) = wordR 0x12000000#32 rs rt rd 0x00C#32 ∧
      (¬(∃ k, k < 8 ∧ ((lane 32 k (s.readV rt)).toInt = 0 ∨ ((lane 32 k (s.readV rs)).toInt = -2 ^ 31 ∧ (lane 32 k (s.readV rt)).toInt = -1))) →
        ∃ t, ∃ q : Nat → BitVec 32, exec (.vdivi32 rs rt rd) s = .next t ∧ WritesLanes 32 s t rd q 0 ∧
          ∀ k, k < 8 → (q k).toInt = Int.tdiv (lane 32 k (s.readV rs)).toInt (lane 32 k (s.readV rt)).toInt) ∧
      ((∃ k, k < 8 ∧ ((lane 32 k (s.readV rt)).toInt = 0 ∨ ((lane 32 k (s.readV rs)).toInt = -2 ^ 31 ∧ (lane 32 k (s.readV rt)).toInt = -1))) →
        exec (.vdivi32 rs rt rd) s = .next { s with op := .faulted (.arithFault (encode (.vdivi32 rs rt rd))) })) ∧
    (encode (.vdivi64 rs rt rd) = wordR 0x12000000#32 rs rt rd 0x00D#32 ∧
      (¬(∃ k, k < 4 ∧ ((lane 64 k (s.readV rt)).toInt = 0 ∨ ((lane 64 k (s.readV rs)).toInt = -2 ^ 63 ∧ (lane 64 k (s.readV rt)).toInt = -1))) →
        ∃ t, ∃ q : Nat → BitVec 64, exec (.vdivi64 rs rt rd) s = .next t ∧ WritesLanes 64 s t rd q 0 ∧
          ∀ k, k < 4 → (q k).toInt = Int.tdiv (lane 64 k (s.readV rs)).toInt (lane 64 k (s.readV rt)).toInt) ∧
      ((∃ k, k < 4 ∧ ((lane 64 k (s.readV rt)).toInt = 0 ∨ ((lane 64 k (s.readV rs)).toInt = -2 ^ 63 ∧ (lane 64 k (s.readV rt)).toInt = -1))) →
        exec (.vdivi64 rs rt rd) s = .next { s with op := .faulted (.arithFault (encode (.vdivi64 rs rt rd))) }))

/-- O34. The eight float lane instructions give the correctly rounded IEEE result in every lane. 44/R273, R277, R278, R281, R282, R285, R286, R289, R290. Holds for every free value (Log 7). -/
def Obligations.FloatLanes : Prop :=
  ∀ (rs rt rd : RegNum) (s : State),
    (encode (.vaddf32 rs rt rd) = wordR 0x12000000#32 rs rt rd 0x002#32 ∧
      ∃ t draws, ∃ r : Nat → BitVec 32, exec (.vaddf32 rs rt rd) s = .next t ∧ WritesLanes 32 s t rd r draws ∧
        ∀ k, k < 8 → IsSum binary32 (binary32.datum (lane 32 k (s.readV rs)).toNat) (binary32.datum (lane 32 k (s.readV rt)).toNat) (r k).toNat) ∧
    (encode (.vaddf64 rs rt rd) = wordR 0x12000000#32 rs rt rd 0x003#32 ∧
      ∃ t draws, ∃ r : Nat → BitVec 64, exec (.vaddf64 rs rt rd) s = .next t ∧ WritesLanes 64 s t rd r draws ∧
        ∀ k, k < 4 → IsSum binary64 (binary64.datum (lane 64 k (s.readV rs)).toNat) (binary64.datum (lane 64 k (s.readV rt)).toNat) (r k).toNat) ∧
    (encode (.vsubf32 rs rt rd) = wordR 0x12000000#32 rs rt rd 0x006#32 ∧
      ∃ t draws, ∃ r : Nat → BitVec 32, exec (.vsubf32 rs rt rd) s = .next t ∧ WritesLanes 32 s t rd r draws ∧
        ∀ k, k < 8 → IsSum binary32 (binary32.datum (lane 32 k (s.readV rs)).toNat) (binary32.datum (lane 32 k (s.readV rt)).toNat).negate (r k).toNat) ∧
    (encode (.vsubf64 rs rt rd) = wordR 0x12000000#32 rs rt rd 0x007#32 ∧
      ∃ t draws, ∃ r : Nat → BitVec 64, exec (.vsubf64 rs rt rd) s = .next t ∧ WritesLanes 64 s t rd r draws ∧
        ∀ k, k < 4 → IsSum binary64 (binary64.datum (lane 64 k (s.readV rs)).toNat) (binary64.datum (lane 64 k (s.readV rt)).toNat).negate (r k).toNat) ∧
    (encode (.vmulf32 rs rt rd) = wordR 0x12000000#32 rs rt rd 0x00A#32 ∧
      ∃ t draws, ∃ r : Nat → BitVec 32, exec (.vmulf32 rs rt rd) s = .next t ∧ WritesLanes 32 s t rd r draws ∧
        ∀ k, k < 8 → IsProduct binary32 (binary32.datum (lane 32 k (s.readV rs)).toNat) (binary32.datum (lane 32 k (s.readV rt)).toNat) (r k).toNat) ∧
    (encode (.vmulf64 rs rt rd) = wordR 0x12000000#32 rs rt rd 0x00B#32 ∧
      ∃ t draws, ∃ r : Nat → BitVec 64, exec (.vmulf64 rs rt rd) s = .next t ∧ WritesLanes 64 s t rd r draws ∧
        ∀ k, k < 4 → IsProduct binary64 (binary64.datum (lane 64 k (s.readV rs)).toNat) (binary64.datum (lane 64 k (s.readV rt)).toNat) (r k).toNat) ∧
    (encode (.vdivf32 rs rt rd) = wordR 0x12000000#32 rs rt rd 0x00E#32 ∧
      ∃ t draws, ∃ r : Nat → BitVec 32, exec (.vdivf32 rs rt rd) s = .next t ∧ WritesLanes 32 s t rd r draws ∧
        ∀ k, k < 8 → IsQuotient binary32 (binary32.datum (lane 32 k (s.readV rs)).toNat) (binary32.datum (lane 32 k (s.readV rt)).toNat) (r k).toNat) ∧
    (encode (.vdivf64 rs rt rd) = wordR 0x12000000#32 rs rt rd 0x00F#32 ∧
      ∃ t draws, ∃ r : Nat → BitVec 64, exec (.vdivf64 rs rt rd) s = .next t ∧ WritesLanes 64 s t rd r draws ∧
        ∀ k, k < 4 → IsQuotient binary64 (binary64.datum (lane 64 k (s.readV rs)).toNat) (binary64.datum (lane 64 k (s.readV rt)).toNat) (r k).toNat)

/-- O35. A pattern of binary32 or binary64 stands for the IEEE datum of its fields. IEEE 754 as 44/R273 and 00/R9 name it. -/
def Obligations.FloatPatterns : Prop :=
  ∀ F, (F = binary32 ∨ F = binary64) → ∀ p, p < 2 * F.signBit →
    let neg := decide (F.signBit ≤ p)
    let e := p / 2 ^ F.fracBits % 2 ^ F.expBits
    let f := p % 2 ^ F.fracBits
    let bias : Int := 2 ^ (F.expBits - 1) - 1
    (e = 2 ^ F.expBits - 1 → f = 0 → F.datum p = .inf neg) ∧
    (e = 2 ^ F.expBits - 1 → f ≠ 0 → F.datum p = .nan) ∧
    (e = 0 → ∃ q, F.datum p = .fin neg q ∧
      finiteValue F false q = (f : Rat) / 2 ^ F.fracBits * (2 : Rat) ^ (1 - bias)) ∧
    (0 < e → e < 2 ^ F.expBits - 1 → ∃ q, F.datum p = .fin neg q ∧
      finiteValue F false q = (1 + (f : Rat) / 2 ^ F.fracBits) * (2 : Rat) ^ ((e : Int) - bias))

/-- O36. The integer vector compares write 1 or 0 in every lane. 45/R325, R326, R329, R330. -/
def Obligations.IntegerCompares : Prop :=
  ∀ (rs rt rd : RegNum) (s : State),
    (encode (.vseqi32 rs rt rd) = wordR 0x12000000#32 rs rt rd 0x030#32 ∧
      ∃ t, exec (.vseqi32 rs rt rd) s = .next t ∧
        WritesLanes 32 s t rd (fun k => if lane 32 k (s.readV rs) = lane 32 k (s.readV rt) then 1#32 else 0#32) 0) ∧
    (encode (.vseqi64 rs rt rd) = wordR 0x12000000#32 rs rt rd 0x031#32 ∧
      ∃ t, exec (.vseqi64 rs rt rd) s = .next t ∧
        WritesLanes 64 s t rd (fun k => if lane 64 k (s.readV rs) = lane 64 k (s.readV rt) then 1#64 else 0#64) 0) ∧
    (encode (.vslti32 rs rt rd) = wordR 0x12000000#32 rs rt rd 0x034#32 ∧
      ∃ t, exec (.vslti32 rs rt rd) s = .next t ∧
        WritesLanes 32 s t rd (fun k => if (lane 32 k (s.readV rs)).toInt < (lane 32 k (s.readV rt)).toInt then 1#32 else 0#32) 0) ∧
    (encode (.vslti64 rs rt rd) = wordR 0x12000000#32 rs rt rd 0x035#32 ∧
      ∃ t, exec (.vslti64 rs rt rd) s = .next t ∧
        WritesLanes 64 s t rd (fun k => if (lane 64 k (s.readV rs)).toInt < (lane 64 k (s.readV rt)).toInt then 1#64 else 0#64) 0)

/-- O37. The float vector compares write the integer 1 where the IEEE relation holds, else 0. 45/R327, R328, R331, R332. -/
def Obligations.FloatCompares : Prop :=
  ∀ (rs rt rd : RegNum) (s : State),
    (encode (.vseqf32 rs rt rd) = wordR 0x12000000#32 rs rt rd 0x032#32 ∧
      ∃ t, ∃ r : Nat → BitVec 32, exec (.vseqf32 rs rt rd) s = .next t ∧ WritesLanes 32 s t rd r 0 ∧
        ∀ k, k < 8 →
          (Ordered (· = ·) (binary32.datum (lane 32 k (s.readV rs)).toNat) (binary32.datum (lane 32 k (s.readV rt)).toNat) → r k = 1#32) ∧
          (¬Ordered (· = ·) (binary32.datum (lane 32 k (s.readV rs)).toNat) (binary32.datum (lane 32 k (s.readV rt)).toNat) → r k = 0#32)) ∧
    (encode (.vseqf64 rs rt rd) = wordR 0x12000000#32 rs rt rd 0x033#32 ∧
      ∃ t, ∃ r : Nat → BitVec 64, exec (.vseqf64 rs rt rd) s = .next t ∧ WritesLanes 64 s t rd r 0 ∧
        ∀ k, k < 4 →
          (Ordered (· = ·) (binary64.datum (lane 64 k (s.readV rs)).toNat) (binary64.datum (lane 64 k (s.readV rt)).toNat) → r k = 1#64) ∧
          (¬Ordered (· = ·) (binary64.datum (lane 64 k (s.readV rs)).toNat) (binary64.datum (lane 64 k (s.readV rt)).toNat) → r k = 0#64)) ∧
    (encode (.vsltf32 rs rt rd) = wordR 0x12000000#32 rs rt rd 0x036#32 ∧
      ∃ t, ∃ r : Nat → BitVec 32, exec (.vsltf32 rs rt rd) s = .next t ∧ WritesLanes 32 s t rd r 0 ∧
        ∀ k, k < 8 →
          (Ordered (· < ·) (binary32.datum (lane 32 k (s.readV rs)).toNat) (binary32.datum (lane 32 k (s.readV rt)).toNat) → r k = 1#32) ∧
          (¬Ordered (· < ·) (binary32.datum (lane 32 k (s.readV rs)).toNat) (binary32.datum (lane 32 k (s.readV rt)).toNat) → r k = 0#32)) ∧
    (encode (.vsltf64 rs rt rd) = wordR 0x12000000#32 rs rt rd 0x037#32 ∧
      ∃ t, ∃ r : Nat → BitVec 64, exec (.vsltf64 rs rt rd) s = .next t ∧ WritesLanes 64 s t rd r 0 ∧
        ∀ k, k < 4 →
          (Ordered (· < ·) (binary64.datum (lane 64 k (s.readV rs)).toNat) (binary64.datum (lane 64 k (s.readV rt)).toNat) → r k = 1#64) ∧
          (¬Ordered (· < ·) (binary64.datum (lane 64 k (s.readV rs)).toNat) (binary64.datum (lane 64 k (s.readV rt)).toNat) → r k = 0#64))

/-- O38. vcvti32f32 and vcvti64f64 round every integer as the selector says, or raise CvtModeFault. 45/R333, R334 with the table of R321. -/
def Obligations.IntegerToFloat : Prop :=
  ∀ (rs rt rd : RegNum) (s : State),
    (encode (.vcvti32f32 rs rt rd) = wordR 0x12000000#32 rs rt rd 0x040#32 ∧
      (∀ mode, (((s.readX rt).extractLsb' 0 2).toNat = 0 ∧ mode = .nearest ∨ ((s.readX rt).extractLsb' 0 2).toNat = 1 ∧ mode = .floor ∨
        ((s.readX rt).extractLsb' 0 2).toNat = 2 ∧ mode = .ceil) →
        ∃ t draws, ∃ r : Nat → BitVec 32, exec (.vcvti32f32 rs rt rd) s = .next t ∧ WritesLanes 32 s t rd r draws ∧
          ∀ k, k < 8 → IsConverted binary32 mode (lane 32 k (s.readV rs)).toInt (r k).toNat) ∧
      (((s.readX rt).extractLsb' 0 2).toNat = 3 →
        exec (.vcvti32f32 rs rt rd) s = .next { s with op := .faulted (.cvtModeFault (encode (.vcvti32f32 rs rt rd))) })) ∧
    (encode (.vcvti64f64 rs rt rd) = wordR 0x12000000#32 rs rt rd 0x041#32 ∧
      (∀ mode, (((s.readX rt).extractLsb' 0 2).toNat = 0 ∧ mode = .nearest ∨ ((s.readX rt).extractLsb' 0 2).toNat = 1 ∧ mode = .floor ∨
        ((s.readX rt).extractLsb' 0 2).toNat = 2 ∧ mode = .ceil) →
        ∃ t draws, ∃ r : Nat → BitVec 64, exec (.vcvti64f64 rs rt rd) s = .next t ∧ WritesLanes 64 s t rd r draws ∧
          ∀ k, k < 4 → IsConverted binary64 mode (lane 64 k (s.readV rs)).toInt (r k).toNat) ∧
      (((s.readX rt).extractLsb' 0 2).toNat = 3 →
        exec (.vcvti64f64 rs rt rd) s = .next { s with op := .faulted (.cvtModeFault (encode (.vcvti64f64 rs rt rd))) }))

/-- O39. vcvtf32i32 and vcvtf64i64 round every float that fits, or raise CvtModeFault. 45/R335, R336 with the table of R321. Holds for every free value (Log 8). -/
def Obligations.FloatToInteger : Prop :=
  ∀ (rs rt rd : RegNum) (s : State),
    (encode (.vcvtf32i32 rs rt rd) = wordR 0x12000000#32 rs rt rd 0x042#32 ∧
      (∀ mode, (((s.readX rt).extractLsb' 0 2).toNat = 0 ∧ mode = .nearest ∨ ((s.readX rt).extractLsb' 0 2).toNat = 1 ∧ mode = .floor ∨
        ((s.readX rt).extractLsb' 0 2).toNat = 2 ∧ mode = .ceil) →
        ∃ t draws, ∃ r : Nat → BitVec 32, exec (.vcvtf32i32 rs rt rd) s = .next t ∧ WritesLanes 32 s t rd r draws ∧
          ∀ k, k < 8 → ∀ neg q i, binary32.datum (lane 32 k (s.readV rs)).toNat = .fin neg q →
            IsRounded mode (finiteValue binary32 neg q) i → -2 ^ 31 ≤ i → i < 2 ^ 31 → (r k).toInt = i) ∧
      (((s.readX rt).extractLsb' 0 2).toNat = 3 →
        exec (.vcvtf32i32 rs rt rd) s = .next { s with op := .faulted (.cvtModeFault (encode (.vcvtf32i32 rs rt rd))) })) ∧
    (encode (.vcvtf64i64 rs rt rd) = wordR 0x12000000#32 rs rt rd 0x043#32 ∧
      (∀ mode, (((s.readX rt).extractLsb' 0 2).toNat = 0 ∧ mode = .nearest ∨ ((s.readX rt).extractLsb' 0 2).toNat = 1 ∧ mode = .floor ∨
        ((s.readX rt).extractLsb' 0 2).toNat = 2 ∧ mode = .ceil) →
        ∃ t draws, ∃ r : Nat → BitVec 64, exec (.vcvtf64i64 rs rt rd) s = .next t ∧ WritesLanes 64 s t rd r draws ∧
          ∀ k, k < 4 → ∀ neg q i, binary64.datum (lane 64 k (s.readV rs)).toNat = .fin neg q →
            IsRounded mode (finiteValue binary64 neg q) i → -2 ^ 63 ≤ i → i < 2 ^ 63 → (r k).toInt = i) ∧
      (((s.readX rt).extractLsb' 0 2).toNat = 3 →
        exec (.vcvtf64i64 rs rt rd) s = .next { s with op := .faulted (.cvtModeFault (encode (.vcvtf64i64 rs rt rd))) }))

/-- O40. vsumi32 and vsumi64 write the wrapped sum of the lanes to a general register. 45/R337, R338; the rt field is free. -/
def Obligations.IntegerSums : Prop :=
  ∀ (rs rt rd : RegNum) (s : State),
    (encode (.vsumi32 rs rt rd) = wordR 0x12000000#32 rs rt rd 0x048#32 ∧
      ∃ t, exec (.vsumi32 rs rt rd) s = .next t ∧
        WritesX s t rd ((lane 32 0 (s.readV rs) + lane 32 1 (s.readV rs) + lane 32 2 (s.readV rs) +
          lane 32 3 (s.readV rs) + lane 32 4 (s.readV rs) + lane 32 5 (s.readV rs) + lane 32 6 (s.readV rs) +
          lane 32 7 (s.readV rs)).signExtend 64) 0) ∧
    (encode (.vsumi64 rs rt rd) = wordR 0x12000000#32 rs rt rd 0x049#32 ∧
      ∃ t, exec (.vsumi64 rs rt rd) s = .next t ∧
        WritesX s t rd (lane 64 0 (s.readV rs) + lane 64 1 (s.readV rs) + lane 64 2 (s.readV rs) +
          lane 64 3 (s.readV rs)) 0)

/-- O41. vsumf32 and vsumf64 add the lanes in order, each addition rounded. 45/R339, R340; the rt field is free. Holds for every free value (Log 7). -/
def Obligations.FloatSums : Prop :=
  ∀ (rs rt rd : RegNum) (s : State),
    (encode (.vsumf32 rs rt rd) = wordR 0x12000000#32 rs rt rd 0x04A#32 ∧
      ∃ t draws, ∃ a : Nat → BitVec 32, exec (.vsumf32 rs rt rd) s = .next t ∧ WritesX s t rd ((a 7).setWidth 64) draws ∧
        a 0 = lane 32 0 (s.readV rs) ∧ ∀ k, k < 7 →
          IsSum binary32 (binary32.datum (a k).toNat) (binary32.datum (lane 32 (k + 1) (s.readV rs)).toNat) (a (k + 1)).toNat) ∧
    (encode (.vsumf64 rs rt rd) = wordR 0x12000000#32 rs rt rd 0x04B#32 ∧
      ∃ t draws, ∃ a : Nat → BitVec 64, exec (.vsumf64 rs rt rd) s = .next t ∧ WritesX s t rd (a 3) draws ∧
        a 0 = lane 64 0 (s.readV rs) ∧ ∀ k, k < 3 →
          IsSum binary64 (binary64.datum (a k).toNat) (binary64.datum (lane 64 (k + 1) (s.readV rs)).toNat) (a (k + 1)).toNat)

/-- O42. vmsb and vlsb pack the top or bottom bit of every lane into a general register. 45/R341 to R344; the rt field is free. -/
def Obligations.BitExtraction : Prop :=
  ∀ (rs rt rd : RegNum) (s : State),
    (encode (.vmsb32 rs rt rd) = wordR 0x12000000#32 rs rt rd 0x050#32 ∧
      ∃ t r, exec (.vmsb32 rs rt rd) s = .next t ∧ WritesX s t rd r 0 ∧
        ∀ k, r.getLsbD k = (decide (k < 8) && (lane 32 k (s.readV rs)).getLsbD 31)) ∧
    (encode (.vmsb64 rs rt rd) = wordR 0x12000000#32 rs rt rd 0x051#32 ∧
      ∃ t r, exec (.vmsb64 rs rt rd) s = .next t ∧ WritesX s t rd r 0 ∧
        ∀ k, r.getLsbD k = (decide (k < 4) && (lane 64 k (s.readV rs)).getLsbD 63)) ∧
    (encode (.vlsb32 rs rt rd) = wordR 0x12000000#32 rs rt rd 0x052#32 ∧
      ∃ t r, exec (.vlsb32 rs rt rd) s = .next t ∧ WritesX s t rd r 0 ∧
        ∀ k, r.getLsbD k = (decide (k < 8) && (lane 32 k (s.readV rs)).getLsbD 0)) ∧
    (encode (.vlsb64 rs rt rd) = wordR 0x12000000#32 rs rt rd 0x053#32 ∧
      ∃ t r, exec (.vlsb64 rs rt rd) s = .next t ∧ WritesX s t rd r 0 ∧
        ∀ k, r.getLsbD k = (decide (k < 4) && (lane 64 k (s.readV rs)).getLsbD 0))

/-- O43. vshuf32 and vshuf64 copy to each lane the source lane its index names. 45/R345, R346. -/
def Obligations.Shuffles : Prop :=
  ∀ (rs rt rd : RegNum) (s : State),
    (encode (.vshuf32 rs rt rd) = wordR 0x12000000#32 rs rt rd 0x058#32 ∧
      ∃ t, exec (.vshuf32 rs rt rd) s = .next t ∧
        WritesLanes 32 s t rd (fun k => lane 32 ((s.readX rt).extractLsb' (3 * k) 3).toNat (s.readV rs)) 0) ∧
    (encode (.vshuf64 rs rt rd) = wordR 0x12000000#32 rs rt rd 0x059#32 ∧
      ∃ t, exec (.vshuf64 rs rt rd) s = .next t ∧
        WritesLanes 64 s t rd (fun k => lane 64 ((s.readX rt).extractLsb' (2 * k) 2).toNat (s.readV rs)) 0)

/-- O44. vld and vst move all 32 bytes of a vector register in one access, or raise SegFault. 45/R347, R348. The premise of vst is part of the invariant of StepKeepsInvariant. -/
def Obligations.VectorLoadStore : Prop :=
  ∀ (rs rt : RegNum) (imm : BitVec 15) (s : State),
    (encode (.vld rs rt imm) = wordI 0x34#32 rs rt imm ∧
      (Accessible s .read (s.readX rs + imm.signExtend 64) 32 →
        ∃ t v, exec (.vld rs rt imm) s = .next t ∧
          HoldsValue s (s.readX rs + imm.signExtend 64).toNat 32 v ∧ WritesV s t rt v 0) ∧
      ∀ c, s.accessFault .read (s.readX rs + imm.signExtend 64) 32 = some c →
        exec (.vld rs rt imm) s = .next { s with op := .faulted c }) ∧
    (encode (.vst rs rt imm) = wordI 0x35#32 rs rt imm ∧
      (Memory.wf s.mem →
        StoresValue (.vst rs rt imm) s 32 (s.readX rs + imm.signExtend 64) (s.readV rt)))

/-- O45. syscall raises BadSyscall for 0 and for every number from 18 up, with nothing changed. 60/R417 with 46/R360, R362. -/
def Obligations.BadSyscall : Prop :=
  ∀ (addr : BitVec 25) (s : State),
    encode (.syscall addr) = wordJ 0x02000000#32 addr ∧
    ((s.readX 2#5).toNat = 0 ∨ 18 ≤ (s.readX 2#5).toNat →
      exec (.syscall addr) s = .next { s with op := .faulted (.badSyscall (s.readX 2#5)) })

/-- O46. print_int, print_float, print_double and print_char append their event and change nothing else. 46/R365, R366, R367, R375. -/
def Obligations.PrintServices : Prop :=
  ∀ (addr : BitVec 25) (s : State),
    (s.readX 2#5 = 1#64 → exec (.syscall addr) s = .next { s with trace := s.trace ++ [.printInt (s.readX 4#5).toInt] }) ∧
    (s.readX 2#5 = 2#64 → exec (.syscall addr) s = .next { s with trace := s.trace ++ [.printFloat ((s.readX 4#5).extractLsb' 0 32)] }) ∧
    (s.readX 2#5 = 3#64 → exec (.syscall addr) s = .next { s with trace := s.trace ++ [.printDouble (s.readX 4#5)] }) ∧
    (s.readX 2#5 = 11#64 → exec (.syscall addr) s = .next { s with trace := s.trace ++ [.printChar (s.readX 4#5)] })

/-- O47. print_string appends the NUL-terminated string at x[4], or faults where its scan fails a check or leaves the segment. 46/R368 with R364. That the fault at a readable byte of another segment is Unmapped is the model's reading (Log 30, DEDUCED). -/
def Obligations.PrintString : Prop :=
  ∀ (addr : BitVec 25) (s : State), s.readX 2#5 = 4#64 →
    (∀ bytes, HoldsString s (s.readX 4#5) bytes →
      exec (.syscall addr) s = .next { s with trace := s.trace ++ [.printString bytes] }) ∧
    ∀ c, ScanStops s (s.readX 4#5) c → exec (.syscall addr) s = .next { s with op := .faulted c }

/-- O48. A string scan that never leaves its segment and meets no zero byte in all 2^64 bytes stops the model by name. The model's choice (Log 12), where the scan of 46/R364 does not end. -/
def Obligations.EndlessString : Prop :=
  ∀ (addr : BitVec 25) (s : State), (s.readX 2#5 = 4#64 ∨ s.readX 2#5 = 13#64) →
    (∀ a, Accessible s .read a 1 ∧ s.byteAt a.toNat ≠ 0#8) →
    (∃ g, ∀ a : Word, s.segments.lookup a.toNat = some g) → exec (.syscall addr) s = .fault .endlessString

/-- O49. read_int, read_float, read_double and read_char write the host's answer to x[2] and use it up. 46/R363, R369, R370, R371, R376. The form of the oracle is the model's choice (Log 5, DESIGN CHOICE), and so is the full width of service 12 (Log 26, DEDUCED). -/
def Obligations.ReadNumbers : Prop :=
  ∀ (addr : BitVec 25) (s : State),
    (∀ answer rest, s.hostInput = answer :: rest → s.hostAnswer = answer) ∧
    (s.hostInput = [] → s.hostAnswer = config.host s.hostAsked s.trace) ∧
    (s.readX 2#5 = 5#64 ∨ s.readX 2#5 = 7#64 ∨ s.readX 2#5 = 12#64 → ∃ t, exec (.syscall addr) s = .next t ∧
      ReturnsX2 s t s.hostAnswer.value ∧ AnswerUsed s t ∧ MemoryKept s t ∧ RunKept s t ∧ t.trace = s.trace) ∧
    (s.readX 2#5 = 6#64 → ∃ t, exec (.syscall addr) s = .next t ∧
      ReturnsX2 s t ((s.hostAnswer.value.extractLsb' 0 32).setWidth 64) ∧ AnswerUsed s t ∧ MemoryKept s t ∧
      RunKept s t ∧ t.trace = s.trace)

/-- O50. read_string writes the host's string and a zero byte at the buffer, or raises the first failed check. 46/R372 with R364. The form of the oracle (Log 5, DESIGN CHOICE) and the string an answer gives (Log 28, DESIGN CHOICE) are the model's. The premise on memory is part of the invariant of StepKeepsInvariant. -/
def Obligations.ReadString : Prop :=
  ∀ (addr : BitVec 25) (s : State), s.readX 2#5 = 8#64 → Memory.wf s.mem →
    ((s.readX 5#5).toNat = 0 → exec (.syscall addr) s = .next s) ∧
    (typedString s.hostAnswer (s.readX 5#5).toNat).length ≤ (s.readX 5#5).toNat - 1 ∧
    0#8 ∉ typedString s.hostAnswer (s.readX 5#5).toNat ∧
    (s.hostAnswer.bytes.length ≤ (s.readX 5#5).toNat - 1 → 0#8 ∉ s.hostAnswer.bytes →
      typedString s.hostAnswer (s.readX 5#5).toNat = s.hostAnswer.bytes) ∧
    (0 < (s.readX 5#5).toNat →
      (BufferAccessible s .write (s.readX 4#5) ((typedString s.hostAnswer (s.readX 5#5).toNat).length + 1) →
        ∃ t, exec (.syscall addr) s = .next t ∧
          BufferWritten s t (s.readX 4#5) (typedString s.hostAnswer (s.readX 5#5).toNat ++ [0#8]) ∧
          RegistersKept s t ∧ AnswerUsed s t ∧ t.op = s.op) ∧
      ∀ j c, j < (typedString s.hostAnswer (s.readX 5#5).toNat).length + 1 →
        BufferStopsAt s .write (s.readX 4#5) j c → ∃ t, exec (.syscall addr) s = .next t ∧
          BufferWritten s t (s.readX 4#5) ((typedString s.hostAnswer (s.readX 5#5).toNat ++ [0#8]).take j) ∧
          RegistersKept s t ∧ AnswerUsed s t ∧ t.op = .faulted c)

/-- O51. sbrk returns the old break and grows the heap with zero bytes, or returns all-ones with nothing changed. 46/R373. The addresses are natural numbers, the sum is not reduced. -/
def Obligations.Sbrk : Prop :=
  ∀ (addr : BitVec 25) (s : State), s.readX 2#5 = 9#64 →
    (s.readX 4#5 = 0#64 → ∃ t, exec (.syscall addr) s = .next t ∧ ReturnsX2 s t (BitVec.ofNat 64 s.brk) ∧ MemoryKept s t ∧
      RunKept s t ∧ NotAsked s t ∧ t.trace = s.trace) ∧
    ((s.readX 4#5).toInt < 0 ∨ s.readX 4#5 ≠ 0#64 ∧ (s.segments.stack.min < s.brk + (s.readX 4#5).toNat ∨
        ∃ g ∈ [s.segments.text, s.segments.data, s.segments.ktext, s.segments.kdata, s.segments.stack], ∃ a,
          s.brk ≤ a ∧ a < s.brk + (s.readX 4#5).toNat ∧ g.min ≤ a ∧ a < g.min + g.size) →
      ∃ t, exec (.syscall addr) s = .next t ∧ ReturnsX2 s t 0xFFFFFFFFFFFFFFFF#64 ∧ MemoryKept s t ∧ RunKept s t ∧
        NotAsked s t ∧ t.trace = s.trace) ∧
    (0 < (s.readX 4#5).toInt → s.brk + (s.readX 4#5).toNat ≤ s.segments.stack.min →
      (∀ g ∈ [s.segments.text, s.segments.data, s.segments.ktext, s.segments.kdata, s.segments.stack], ∀ a,
        s.brk ≤ a → a < s.brk + (s.readX 4#5).toNat → a < g.min ∨ g.min + g.size ≤ a) →
      ∃ t, exec (.syscall addr) s = .next t ∧ ReturnsX2 s t (BitVec.ofNat 64 s.brk) ∧
        t.segments = { s.segments with heap :=
          { s.segments.heap with size := s.segments.heap.size + (s.readX 4#5).toNat } } ∧
        (∀ a, s.brk ≤ a → a < s.brk + (s.readX 4#5).toNat → t.byteAt a = 0#8) ∧
        (∀ a, a < s.brk ∨ s.brk + (s.readX 4#5).toNat ≤ a → t.byteAt a = s.byteAt a) ∧
        t.fds = s.fds ∧ RunKept s t ∧ NotAsked s t ∧ t.trace = s.trace)

/-- O52. exit and exit2 halt with code 0 or x[4] and change nothing else. 46/R374, R381. -/
def Obligations.ExitServices : Prop :=
  ∀ (addr : BitVec 25) (s : State),
    (s.readX 2#5 = 10#64 → exec (.syscall addr) s = .next { s with op := .halted, exitCode := 0#64 }) ∧
    (s.readX 2#5 = 17#64 → exec (.syscall addr) s = .next { s with op := .halted, exitCode := s.readX 4#5 })

/-- O53. open adds the lowest free descriptor with its access mode, or returns all-ones; both append the event. 46/R377 with R364. The form of the oracle is the model's choice (Log 5, DESIGN CHOICE); that mode 3 fails without a question and with its event is the model's reading (Log 13, DEDUCED); so is the kind of the fault where the path leaves its segment into a readable one (Log 30, DEDUCED). -/
def Obligations.OpenService : Prop :=
  ∀ (addr : BitVec 25) (s : State), s.readX 2#5 = 13#64 →
    (∀ path, HoldsString s (s.readX 4#5) path →
      (∀ access, ((s.readX 5#5).extractLsb' 0 2).toNat = 0 ∧ access = .readOnly ∨
          ((s.readX 5#5).extractLsb' 0 2).toNat = 1 ∧ access = .writeOnly ∨
          ((s.readX 5#5).extractLsb' 0 2).toNat = 2 ∧ access = .readWrite →
        s.hostAnswer.ok = true → s.hostAnswer.fileExists = true ∨ (s.readX 5#5).getLsbD 6 = true →
        ∃ t fd, exec (.syscall addr) s = .next t ∧ ReturnsX2 s t (BitVec.ofNat 64 fd) ∧
          3 ≤ fd ∧ FdTable.find s.fds fd = none ∧ (∀ n, 3 ≤ n → FdTable.find s.fds n = none → fd ≤ n) ∧
          FdTable.find t.fds fd = some access ∧ (∀ n, n ≠ fd → FdTable.find t.fds n = FdTable.find s.fds n) ∧
          t.trace = s.trace ++ [.fileOpen path (s.readX 5#5) (s.readX 6#5) (BitVec.ofNat 64 fd)] ∧
          (∀ a, t.byteAt a = s.byteAt a) ∧ t.segments = s.segments ∧ RunKept s t ∧ AnswerUsed s t) ∧
      (((s.readX 5#5).extractLsb' 0 2).toNat = 3 ∨ s.hostAnswer.ok = false ∨
          s.hostAnswer.fileExists = false ∧ (s.readX 5#5).getLsbD 6 = false →
        ∃ t, exec (.syscall addr) s = .next t ∧ ReturnsX2 s t 0xFFFFFFFFFFFFFFFF#64 ∧ MemoryKept s t ∧ RunKept s t ∧
          t.trace = s.trace ++ [.fileOpen path (s.readX 5#5) (s.readX 6#5) 0xFFFFFFFFFFFFFFFF#64] ∧
          (((s.readX 5#5).extractLsb' 0 2).toNat = 3 → NotAsked s t) ∧
          (((s.readX 5#5).extractLsb' 0 2).toNat ≠ 3 → AnswerUsed s t))) ∧
    ∀ c, ScanStops s (s.readX 4#5) c → exec (.syscall addr) s = .next { s with op := .faulted c }

/-- O54. read gives the host's bytes to the buffer and their number, or all-ones, or raises SegFault. 46/R378 with R364. The form of the oracle (Log 5, DESIGN CHOICE) and the cut of an answer to n bytes (Log 28, DESIGN CHOICE) are the model's. The premise on memory is part of the invariant of StepKeepsInvariant. -/
def Obligations.ReadFileService : Prop :=
  ∀ (addr : BitVec 25) (s : State), s.readX 2#5 = 14#64 → Memory.wf s.mem →
    ((∀ access, FdTable.find s.fds (s.readX 4#5).toNat = some access → access = .writeOnly) →
      ∃ t, exec (.syscall addr) s = .next t ∧ ReturnsX2 s t 0xFFFFFFFFFFFFFFFF#64 ∧ MemoryKept s t ∧ RunKept s t ∧
        NotAsked s t ∧ t.trace = s.trace) ∧
    (∀ access, FdTable.find s.fds (s.readX 4#5).toNat = some access → access = .readOnly ∨ access = .readWrite →
      (s.hostAnswer.ok = false → ∃ t, exec (.syscall addr) s = .next t ∧ ReturnsX2 s t 0xFFFFFFFFFFFFFFFF#64 ∧
        MemoryKept s t ∧ RunKept s t ∧ AnswerUsed s t ∧ t.trace = s.trace) ∧
      (s.hostAnswer.ok = true →
        (BufferAccessible s .write (s.readX 5#5) (s.hostAnswer.bytes.take (s.readX 6#5).toNat).length →
          ∃ t, exec (.syscall addr) s = .next t ∧ BufferWritten s t (s.readX 5#5) (s.hostAnswer.bytes.take (s.readX 6#5).toNat) ∧
          ReturnsX2 s t (BitVec.ofNat 64 (s.hostAnswer.bytes.take (s.readX 6#5).toNat).length) ∧ AnswerUsed s t ∧ t.op = s.op) ∧
        ∀ j c, j < (s.hostAnswer.bytes.take (s.readX 6#5).toNat).length → BufferStopsAt s .write (s.readX 5#5) j c →
          ∃ t, exec (.syscall addr) s = .next t ∧
            BufferWritten s t (s.readX 5#5) ((s.hostAnswer.bytes.take (s.readX 6#5).toNat).take j) ∧
            RegistersKept s t ∧ AnswerUsed s t ∧ t.op = .faulted c))

/-- O55. write gives the bytes of the buffer to the host and returns their number, or all-ones, or raises SegFault. 46/R379 with R364. The error report is read from the model's form of the oracle (Log 5, DESIGN CHOICE); that a failed write appends no event is the model's reading of 46 section 6 (Log 14, DEDUCED). -/
def Obligations.WriteFileService : Prop :=
  ∀ (addr : BitVec 25) (s : State), s.readX 2#5 = 15#64 →
    ((∀ access, FdTable.find s.fds (s.readX 4#5).toNat = some access → access = .readOnly) →
      ∃ t, exec (.syscall addr) s = .next t ∧ ReturnsX2 s t 0xFFFFFFFFFFFFFFFF#64 ∧ MemoryKept s t ∧ RunKept s t ∧
        NotAsked s t ∧ t.trace = s.trace) ∧
    (∀ access, FdTable.find s.fds (s.readX 4#5).toNat = some access → access = .writeOnly ∨ access = .readWrite →
      (BufferAccessible s .read (s.readX 5#5) (s.readX 6#5).toNat → ∃ bytes : List Byte,
        bytes.length = (s.readX 6#5).toNat ∧ HoldsBytes s (s.readX 5#5) bytes ∧
        ((s.readX 4#5).toNat < 3 ∨ s.hostAnswer.ok = true → ∃ t, exec (.syscall addr) s = .next t ∧ ReturnsX2 s t (s.readX 6#5) ∧
          MemoryKept s t ∧ RunKept s t ∧ t.trace = s.trace ++ [.fileWrite (s.readX 4#5) bytes] ∧
          ((s.readX 4#5).toNat < 3 → NotAsked s t) ∧ (3 ≤ (s.readX 4#5).toNat → AnswerUsed s t)) ∧
        (3 ≤ (s.readX 4#5).toNat → s.hostAnswer.ok = false → ∃ t, exec (.syscall addr) s = .next t ∧
          ReturnsX2 s t 0xFFFFFFFFFFFFFFFF#64 ∧ MemoryKept s t ∧ RunKept s t ∧ AnswerUsed s t ∧
          t.trace = s.trace)) ∧
      ∀ j c, j < (s.readX 6#5).toNat → BufferStopsAt s .read (s.readX 5#5) j c →
        exec (.syscall addr) s = .next { s with op := .faulted c })

/-- O56. close removes an open descriptor from 3 up and returns 0, or returns all-ones with nothing changed. 46/R380. -/
def Obligations.CloseService : Prop :=
  ∀ (addr : BitVec 25) (s : State), s.readX 2#5 = 16#64 →
    (3 ≤ (s.readX 4#5).toNat → FdTable.find s.fds (s.readX 4#5).toNat ≠ none → ∃ t, exec (.syscall addr) s = .next t ∧
      ReturnsX2 s t 0#64 ∧ FdTable.find t.fds (s.readX 4#5).toNat = none ∧
      (∀ n, n ≠ (s.readX 4#5).toNat → FdTable.find t.fds n = FdTable.find s.fds n) ∧
      t.trace = s.trace ++ [.fileClose (s.readX 4#5)] ∧ (∀ a, t.byteAt a = s.byteAt a) ∧
      t.segments = s.segments ∧ RunKept s t ∧ NotAsked s t) ∧
    ((s.readX 4#5).toNat < 3 ∨ FdTable.find s.fds (s.readX 4#5).toNat = none → ∃ t, exec (.syscall addr) s = .next t ∧
      ReturnsX2 s t 0xFFFFFFFFFFFFFFFF#64 ∧ MemoryKept s t ∧ RunKept s t ∧ NotAsked s t ∧
        t.trace = s.trace)

/-- O57. syscall changes no register but x[2], and x[2] only for a service that returns a value. 46/R361 with the table of R362. -/
def Obligations.SyscallRegisters : Prop :=
  ∀ (addr : BitVec 25) (s : State), ∀ t, exec (.syscall addr) s = .next t →
    (∀ r, r ≠ 2#5 → t.readX r = s.readX r) ∧ (∀ r, t.readV r = s.readV r) ∧ t.hi = s.hi ∧ t.lo = s.lo ∧
    t.pc = s.pc ∧ t.kernel = s.kernel ∧
    ((s.readX 2#5).toNat ≤ 4 ∨ (s.readX 2#5).toNat = 8 ∨ (s.readX 2#5).toNat = 10 ∨ (s.readX 2#5).toNat = 11 ∨
      17 ≤ (s.readX 2#5).toNat → t.readX 2#5 = s.readX 2#5)

/-- O58. No step changes a byte of a segment that is not writable. 20/R63, R68, R71, for every instruction and service. -/
def Obligations.WriteProtection : Prop :=
  ∀ (s t : State) (g : Segment) (a : Nat), s.segments.disjoint = true → step s = .next t →
    g ∈ s.segments.all → g.w = false → g.min ≤ a → a < g.min + g.size → t.byteAt a = s.byteAt a

/-- O59. The kernel bank is 0 after reset, no step changes it, and no step depends on it. 10/R31. -/
def Obligations.KernelBankInert : Prop :=
  (∀ (i : Executable) (stackSize gap : Nat) (oracle : List HostAnswer) (s : State),
      (hostReset i stackSize gap oracle s).kernel = ⟨0#64, 0#64, 0#64, 0#64, 0#64, 0#64⟩) ∧
    ∀ (s t : State) (bank : KernelBank), step s = .next t →
      t.kernel = s.kernel ∧ step { s with kernel := bank } = .next { t with kernel := bank }

/-- O60. A step that ends Faulted has changed no register, and no byte but those of a syscall buffer. 60/R411, R413. -/
def Obligations.PreciseFaults : Prop :=
  ∀ (s t : State) (c : Condition), s.op = .ready → step s = .next t → t.op = .faulted c →
    (∀ r, t.readX r = s.readX r) ∧ (∀ r, t.readV r = s.readV r) ∧ t.hi = s.hi ∧ t.lo = s.lo ∧
    t.kernel = s.kernel ∧ t.segments = s.segments ∧ t.fds = s.fds ∧ t.trace = s.trace ∧ t.exitCode = s.exitCode ∧
    (∀ kind a, c = .segFault kind a .fetch → t.pc = s.pc ∧ a = s.pc) ∧
    ((∀ kind a, c ≠ .segFault kind a .fetch) → t.pc = s.pc + 4#64) ∧
    (∀ a, t.byteAt a ≠ s.byteAt a →
      (∃ w addr, HoldsValue s s.pc.toNat 4 w ∧ decode w = .ok (.syscall addr)) ∧
      ((s.readX 2#5).toNat = 8 ∧
          (∃ j, j < (s.readX 5#5).toNat ∧ a = (s.readX 4#5 + BitVec.ofNat 64 j).toNat) ∨
        (s.readX 2#5).toNat = 14 ∧
          ∃ j, j < (s.readX 6#5).toNat ∧ a = (s.readX 5#5 + BitVec.ofNat 64 j).toNat))
end

