-- ==== Sys2Proof/Laws/Lanes.lean ====
section
/-! SUPPORT. Lanes of a vector built lane by lane (10/R27, 44/R270). -/

namespace Sys2Proof.Machine

theorem lanesValue_lt {w : Nat} (f : Nat → BitVec w) (n : Nat) : lanesValue f n < 2 ^ (w * n) := by
  induction n with
  | zero => simp [lanesValue]
  | succ n ih =>
    have h := (f n).isLt
    rw [lanesValue, Nat.mul_succ, Nat.pow_add]
    calc lanesValue f n + (f n).toNat * 2 ^ (w * n)
        < 2 ^ (w * n) + (f n).toNat * 2 ^ (w * n) := by omega
      _ = ((f n).toNat + 1) * 2 ^ (w * n) := by ring
      _ ≤ 2 ^ w * 2 ^ (w * n) := Nat.mul_le_mul_right _ (by omega)
      _ = 2 ^ (w * n) * 2 ^ w := Nat.mul_comm _ _

/-- Digit `k` of the number is `f k`. -/
theorem lanesValue_digit {w : Nat} (f : Nat → BitVec w) (n : Nat) : ∀ k, k < n →
    lanesValue f n / 2 ^ (w * k) % 2 ^ w = (f k).toNat := by
  induction n with
  | zero => intro k h; omega
  | succ n ih =>
    intro k h
    rw [lanesValue]
    by_cases hk : k = n
    · subst hk
      rw [Nat.add_mul_div_right _ _ (Nat.two_pow_pos _), Nat.div_eq_of_lt (lanesValue_lt f k), Nat.zero_add,
        Nat.mod_eq_of_lt (f k).isLt]
    · have hlt : k < n := by omega
      have e : w * n = w * k + w * (n - k) := by rw [← Nat.mul_add]; congr 1; omega
      have e2 : w * (n - k) = w + w * (n - k - 1) := by
        conv_lhs => rw [show n - k = (n - k - 1) + 1 by omega, Nat.mul_succ]
        omega
      rw [show (f n).toNat * 2 ^ (w * n) = 2 ^ (w * k) * (2 ^ w * ((f n).toNat * 2 ^ (w * (n - k - 1)))) by
        rw [e, e2, Nat.pow_add, Nat.pow_add]; ring]
      rw [Nat.add_mul_div_left _ _ (Nat.two_pow_pos _), Nat.add_mul_mod_self_left]
      exact ih k hlt

/-- Lane `k` of a vector built lane by lane is `f k` (44/R270). -/
theorem lane_ofLanes {w : Nat} (f : Nat → BitVec w) (k : Nat) (hk : k < laneCount w) : lane w k (ofLanes w f) = f k := by
  apply BitVec.eq_of_toNat_eq
  have hw : w * laneCount w ≤ 256 := Nat.mul_div_le 256 w
  have hv : lanesValue f (laneCount w) < 2 ^ 256 :=
    Nat.lt_of_lt_of_le (lanesValue_lt f _) (Nat.pow_le_pow_right (by omega) hw)
  rw [lane, BitVec.extractLsb'_toNat, ofLanes, BitVec.toNat_ofNat, Nat.mod_eq_of_lt hv, Nat.shiftRight_eq_div_pow]
  exact lanesValue_digit f _ k hk

theorem lane_mapLanes {w : Nat} (f : BitVec w → BitVec w) (a : VWord) (k : Nat) (hk : k < laneCount w) :
    lane w k (mapLanes w f a) = f (lane w k a) := lane_ofLanes _ k hk

theorem lane_zipLanes {w : Nat} (f : BitVec w → BitVec w → BitVec w) (a b : VWord) (k : Nat) (hk : k < laneCount w) :
    lane w k (zipLanes w f a b) = f (lane w k a) (lane w k b) := lane_ofLanes _ k hk

/-- Two vectors with the same lanes are the same (10/R27: the lanes are views of one value). -/
theorem eq_of_lanes {w : Nat} (hw : w * laneCount w = 256) (a b : VWord)
    (h : ∀ k, k < laneCount w → lane w k a = lane w k b) : a = b := by
  apply BitVec.eq_of_getLsbD_eq
  intro i hi
  have hw0 : 0 < w := by rcases Nat.eq_zero_or_pos w with rfl | h0 <;> omega
  have hk : i / w < laneCount w := (Nat.div_lt_iff_lt_mul hw0).mpr (by rw [Nat.mul_comm]; omega)
  have hm : i % w < w := Nat.mod_lt _ hw0
  have := congrArg (fun x => x.getLsbD (i % w)) (h (i / w) hk)
  simp only [lane, BitVec.getLsbD_extractLsb', hm, decide_true, Bool.true_and] at this
  rwa [Nat.div_add_mod] at this

/-- Bit `k` of packed bits (45 section 4). -/
theorem packBits_bit (w : Nat) (p : Nat → Bool) (k : Nat) (hw : laneCount w ≤ 64) :
    (packBits w p).getLsbD k = (decide (k < laneCount w) && p k) := by
  have hv : lanesValue (fun j => BitVec.ofBool (p j)) (laneCount w) < 2 ^ laneCount w := by
    have := lanesValue_lt (fun j => BitVec.ofBool (p j)) (laneCount w); simpa using this
  have hv64 := Nat.lt_of_lt_of_le hv (Nat.pow_le_pow_right (by omega : 0 < 2) hw)
  rw [packBits, BitVec.getLsbD, BitVec.toNat_ofNat, Nat.mod_eq_of_lt hv64]
  by_cases hk : k < laneCount w
  · have hd := lanesValue_digit (fun j => BitVec.ofBool (p j)) (laneCount w) k hk
    rw [Nat.one_mul, Nat.pow_one] at hd
    rw [Nat.testBit_eq_decide_div_mod_eq, hd]
    cases p k <;> simp [hk]
  · rw [Nat.testBit_lt_two_pow (Nat.lt_of_lt_of_le hv (Nat.pow_le_pow_right (by omega) (by omega)))]
    simp [hk]

end Sys2Proof.Machine
end

