-- ==== Sys2Proof/Laws/Memory.lean ====
section
/-! SUPPORT. Laws of the byte list: what a read gives after each operation, and that every operation
keeps the canonical form. -/

namespace Sys2Proof.Machine

/-! ### Reading -/

@[simp] theorem Memory.read_nil (a : Nat) : Memory.read [] a = Memory.unlisted := rfl

theorem Memory.read_cons (c : Host.Cell) (m : Memory) (a : Nat) :
    Memory.read (c :: m) a = if c.1 = a then c.2 else Memory.read m a := rfl

/-- A byte that is listed nowhere reads as an unlisted one. -/
theorem Memory.read_of_not_listed (m : Memory) (a : Nat) (h : ∀ c ∈ m, c.1 ≠ a) :
    m.read a = Memory.unlisted := by
  induction m with
  | nil => rfl
  | cons c m ih =>
    rw [Memory.read_cons, if_neg (h c (by simp))]
    exact ih fun d hd => h d (by simp [hd])

theorem Memory.read_entry_same (a : Nat) (b : Byte) (m : Memory) (h : ∀ c ∈ m, c.1 ≠ a) :
    Memory.read (Memory.entry a b m) a = b := by
  unfold Memory.entry
  split
  · next hb => rw [Memory.read_of_not_listed m a h, hb]
  · simp [Memory.read_cons]

theorem Memory.read_entry_other (a : Nat) (b : Byte) (m : Memory) (a' : Nat) (h : a' ≠ a) :
    Memory.read (Memory.entry a b m) a' = m.read a' := by
  unfold Memory.entry
  split
  · rfl
  · simp [Memory.read_cons, h.symm]

theorem Memory.wf_tail {c : Host.Cell} {m : Memory} (h : Memory.wf (c :: m)) : Memory.wf m :=
  ⟨(List.pairwise_cons.mp h.1).2, fun d hd => h.2 d (by simp [hd])⟩

theorem Memory.wf_head {c : Host.Cell} {m : Memory} (h : Memory.wf (c :: m)) : ∀ d ∈ m, c.1 < d.1 :=
  (List.pairwise_cons.mp h.1).1

/-- A write leaves every other byte alone. -/
theorem Memory.read_write_other (m : Memory) (a : Nat) (b : Byte) (a' : Nat) (h : a' ≠ a) :
    (m.write a b).read a' = m.read a' := by
  induction m with
  | nil => exact Memory.read_entry_other a b [] a' h
  | cons c m ih =>
    unfold Memory.write
    split
    · exact Memory.read_entry_other a b _ a' h
    · split
      · next _ e => rw [Memory.read_entry_other a b m a' h, Memory.read_cons, if_neg (by omega)]
      · rw [Memory.read_cons, Memory.read_cons, ih]

/-- A read after a write to the same place gives the byte written. -/
theorem Memory.read_write_same (m : Memory) (hm : Memory.wf m) (a : Nat) (b : Byte) :
    (m.write a b).read a = b := by
  induction m with
  | nil => exact Memory.read_entry_same a b [] (by simp)
  | cons c m ih =>
    have hd := Memory.wf_head hm
    unfold Memory.write
    split
    · next lt =>
      refine Memory.read_entry_same a b _ fun d hdm => ?_
      rcases List.mem_cons.mp hdm with rfl | hdm
      · omega
      · have := hd d hdm; omega
    · split
      · next _ e => exact Memory.read_entry_same a b m fun d hdm => by have := hd d hdm; omega
      · next _ ne => rw [Memory.read_cons, if_neg (by omega), ih (Memory.wf_tail hm)]

/-! ### The canonical form -/

theorem Memory.mem_write (m : Memory) (a : Nat) (b : Byte) :
    ∀ d ∈ m.write a b, d = (a, b) ∨ d ∈ m := by
  induction m with
  | nil =>
    intro d hd
    unfold Memory.write Memory.entry at hd
    split at hd <;> simp_all
  | cons c m ih =>
    intro d hd
    unfold Memory.write Memory.entry at hd
    split at hd
    · split at hd <;> simp_all
    · split at hd
      · split at hd <;> (simp_all; try tauto)
      · rcases List.mem_cons.mp hd with rfl | hd
        · simp
        · rcases ih d hd with h | h <;> simp [h]

theorem Memory.wf_entry (a : Nat) (b : Byte) (m : Memory) (hm : Memory.wf m) (h : ∀ c ∈ m, a < c.1) :
    Memory.wf (Memory.entry a b m) := by
  unfold Memory.entry
  split
  · exact hm
  · next hb =>
    refine ⟨List.pairwise_cons.mpr ⟨h, hm.1⟩, fun c hc => ?_⟩
    rcases List.mem_cons.mp hc with rfl | hc
    · exact hb
    · exact hm.2 c hc

/-- A write keeps the canonical form. -/
theorem Memory.wf_write (m : Memory) (hm : Memory.wf m) (a : Nat) (b : Byte) : Memory.wf (m.write a b) := by
  induction m with
  | nil => exact Memory.wf_entry a b [] hm (by simp)
  | cons c m ih =>
    have hd := Memory.wf_head hm
    unfold Memory.write
    split
    · next lt =>
      refine Memory.wf_entry a b _ hm fun d hdm => ?_
      rcases List.mem_cons.mp hdm with rfl | hdm
      · exact lt
      · have := hd d hdm; omega
    · split
      · next _ e => exact Memory.wf_entry a b m (Memory.wf_tail hm) fun d hdm => e ▸ hd d hdm
      · next lt ne =>
        have iw := ih (Memory.wf_tail hm)
        refine ⟨List.pairwise_cons.mpr ⟨fun d hdm => ?_, iw.1⟩, fun d hdm => ?_⟩
        · rcases Memory.mem_write m a b d hdm with rfl | h
          · show c.1 < a; omega
          · exact hd d h
        · rcases List.mem_cons.mp hdm with rfl | h
          · exact hm.2 d (by simp)
          · exact iw.2 d h

/-- Writing a run of bytes keeps the canonical form. -/
theorem Memory.wf_writeBytes (bs : List Byte) : ∀ (m : Memory) (a : Nat), Memory.wf m → Memory.wf (m.writeBytes a bs) := by
  induction bs with
  | nil => exact fun m _ hm => hm
  | cons b bs ih => exact fun m a hm => ih (m.write a b) (a + 1) (Memory.wf_write m hm a b)

/-- A store keeps the canonical form. -/
theorem Memory.wf_store (m : Memory) (hm : Memory.wf m) (a n : Nat) (w : BitVec (8 * n)) :
    Memory.wf (m.store a n w) := Memory.wf_writeBytes _ m a hm

/-- Clearing a range keeps the canonical form. -/
theorem Memory.wf_clear (m : Memory) (hm : Memory.wf m) (lo hi : Nat) : Memory.wf (m.clear lo hi) :=
  ⟨hm.1.filter _, fun c hc => hm.2 c (List.mem_of_mem_filter hc)⟩

/-- The memory a reset creates is canonical. -/
theorem memoryAtReset_wf (i : Executable) : Memory.wf (memoryAtReset i) := by
  unfold memoryAtReset placeImage
  exact Memory.wf_writeBytes _ _ _ (Memory.wf_writeBytes _ _ _ (Memory.wf_writeBytes _ _ _
    (Memory.wf_writeBytes _ _ _ ⟨List.Pairwise.nil, by simp⟩)))

/-! ### Runs of bytes -/

/-- Writing a run leaves every byte outside it alone. -/
theorem Memory.read_writeBytes_outside (bs : List Byte) : ∀ (m : Memory) (a a' : Nat),
    (a' < a ∨ a + bs.length ≤ a') → (m.writeBytes a bs).read a' = m.read a' := by
  induction bs with
  | nil => exact fun _ _ _ _ => rfl
  | cons b bs ih =>
    intro m a a' h
    simp only [List.length_cons] at h
    show (Memory.writeBytes (m.write a b) (a + 1) bs).read a' = _
    rw [ih (m.write a b) (a + 1) a' (by omega), Memory.read_write_other m a b a' (by omega)]

/-- Inside the run, the byte at `a + j` is byte `j` of it. -/
theorem Memory.read_writeBytes_inside (bs : List Byte) : ∀ (m : Memory) (a j : Nat), Memory.wf m →
    (h : j < bs.length) → (m.writeBytes a bs).read (a + j) = bs[j] := by
  induction bs with
  | nil => intro m a j _ h; exact absurd h (by simp)
  | cons b bs ih =>
    intro m a j hm h
    show (Memory.writeBytes (m.write a b) (a + 1) bs).read (a + j) = _
    cases j with
    | zero =>
      rw [Memory.read_writeBytes_outside bs _ _ _ (by omega)]
      exact Memory.read_write_same m hm a b
    | succ j =>
      rw [show a + (j + 1) = a + 1 + j by omega]
      exact ih (m.write a b) (a + 1) j (Memory.wf_write m hm a b) (by simpa using h)

@[simp] theorem Memory.length_readBytes (m : Memory) (n : Nat) : ∀ a, (m.readBytes a n).length = n := by
  induction n with
  | zero => exact fun _ => rfl
  | succ n ih => intro a; show (_ :: _).length = _; simp [ih]

theorem Memory.getElem_readBytes (m : Memory) (n : Nat) : ∀ (a j : Nat) (h : j < (m.readBytes a n).length),
    (m.readBytes a n)[j] = m.read (a + j) := by
  induction n with
  | zero => intro a j h; exact absurd h (by simp)
  | succ n ih =>
    intro a j h
    cases j with
    | zero => rfl
    | succ j =>
      show (m.readBytes (a + 1) n)[j]'(by simpa using h) = _
      rw [ih (a + 1) j, show a + 1 + j = a + (j + 1) by omega]

@[simp] theorem length_bytesOf (n : Nat) (w : BitVec (8 * n)) : (bytesOf n w).length = n := by simp [bytesOf]

theorem getElem_bytesOf (n : Nat) (w : BitVec (8 * n)) (j : Nat) (h : j < (bytesOf n w).length) :
    (bytesOf n w)[j] = w.extractLsb' (8 * j) 8 := by simp [bytesOf]

/-- A store leaves every byte outside its `n` bytes alone. -/
theorem Memory.read_store_outside (m : Memory) (a n : Nat) (w : BitVec (8 * n)) (a' : Nat)
    (h : a' < a ∨ a + n ≤ a') : (m.store a n w).read a' = m.read a' :=
  Memory.read_writeBytes_outside _ m a a' (by simpa using h)

/-- The byte a store puts at `a + j` is bits `8j + 7` to `8j` of the value (20/R71). -/
theorem Memory.read_store_inside (m : Memory) (hm : Memory.wf m) (a n : Nat) (w : BitVec (8 * n)) (j : Nat)
    (h : j < n) : (m.store a n w).read (a + j) = w.extractLsb' (8 * j) 8 := by
  unfold Memory.store
  rw [Memory.read_writeBytes_inside _ m a j hm (by simpa using h), getElem_bytesOf]

theorem littleEndian_lt (bs : List Byte) : littleEndian bs < 2 ^ (8 * bs.length) := by
  induction bs with
  | nil => simp [littleEndian]
  | cons b bs ih =>
    have hb := b.isLt
    simp only [littleEndian, List.length_cons, Nat.mul_add, Nat.pow_add] at *
    omega

theorem littleEndian_byte (bs : List Byte) : ∀ (j : Nat) (h : j < bs.length),
    littleEndian bs / 2 ^ (8 * j) % 256 = (bs[j]).toNat := by
  induction bs with
  | nil => intro j h; exact absurd h (by simp)
  | cons b bs ih =>
    intro j h
    have hb := b.isLt
    cases j with
    | zero => simp only [littleEndian, List.getElem_cons_zero]; omega
    | succ j =>
      rw [show 8 * (j + 1) = 8 + 8 * j by omega, Nat.pow_add, ← Nat.div_div_eq_div_mul]
      have : littleEndian (b :: bs) / 2 ^ 8 = littleEndian bs := by simp only [littleEndian]; omega
      rw [this]
      exact ih j (by simpa using h)

/-- Byte `j` of a loaded value is the byte at `a + j` (20/R69, R70). -/
theorem Memory.load_byte (m : Memory) (a n j : Nat) (h : j < n) :
    (m.load a n).extractLsb' (8 * j) 8 = m.read (a + j) := by
  apply BitVec.eq_of_toNat_eq
  have hl := littleEndian_lt (m.readBytes a n)
  rw [Memory.length_readBytes] at hl
  rw [BitVec.extractLsb'_toNat, Memory.load, BitVec.toNat_ofNat, Nat.mod_eq_of_lt hl, Nat.shiftRight_eq_div_pow]
  have := littleEndian_byte (m.readBytes a n) j (by simpa using h)
  rw [this, Memory.getElem_readBytes]

/-- What is cleared reads as unlisted. -/
theorem Memory.read_clear_inside (m : Memory) (lo hi a : Nat) (h : lo ≤ a ∧ a < hi) :
    (m.clear lo hi).read a = Memory.unlisted := by
  refine Memory.read_of_not_listed _ a fun c hc e => ?_
  have := List.of_mem_filter hc
  simp only [Bool.or_eq_true, decide_eq_true_eq] at this
  omega

/-- Clearing leaves every byte outside the range alone. -/
theorem Memory.read_clear_outside (m : Memory) (lo hi a : Nat) (h : a < lo ∨ hi ≤ a) :
    (m.clear lo hi).read a = m.read a := by
  induction m with
  | nil => rfl
  | cons c m ih =>
    unfold Memory.clear at ih ⊢
    rw [List.filter_cons]
    split
    · rw [Memory.read_cons, Memory.read_cons, ih]
    · next hc =>
      simp only [Bool.or_eq_true, decide_eq_true_eq] at hc
      rw [ih, Memory.read_cons, if_neg (by omega)]

end Sys2Proof.Machine
end

