-- ==== Sys2Proof/Laws/State.lean ====
section
/-! SUPPORT. What each update of the state does to each field. -/

namespace Sys2Proof.Machine

/-! ### `writeX` -/

@[simp] theorem State.writeX_x (s : State) (i : RegNum) (w : Word) : (s.writeX i w).x = if i = 0#5 then s.x else s.x.set i.toNat w i.isLt := rfl
@[simp] theorem State.writeX_pc (s : State) (i : RegNum) (w : Word) : (s.writeX i w).pc = s.pc := rfl
@[simp] theorem State.writeX_hi (s : State) (i : RegNum) (w : Word) : (s.writeX i w).hi = s.hi := rfl
@[simp] theorem State.writeX_lo (s : State) (i : RegNum) (w : Word) : (s.writeX i w).lo = s.lo := rfl
@[simp] theorem State.writeX_v (s : State) (i : RegNum) (w : Word) : (s.writeX i w).v = s.v := rfl
@[simp] theorem State.writeX_kernel (s : State) (i : RegNum) (w : Word) : (s.writeX i w).kernel = s.kernel := rfl
@[simp] theorem State.writeX_op (s : State) (i : RegNum) (w : Word) : (s.writeX i w).op = s.op := rfl
@[simp] theorem State.writeX_exitCode (s : State) (i : RegNum) (w : Word) : (s.writeX i w).exitCode = s.exitCode := rfl
@[simp] theorem State.writeX_segments (s : State) (i : RegNum) (w : Word) : (s.writeX i w).segments = s.segments := rfl
@[simp] theorem State.writeX_mem (s : State) (i : RegNum) (w : Word) : (s.writeX i w).mem = s.mem := rfl
@[simp] theorem State.writeX_fds (s : State) (i : RegNum) (w : Word) : (s.writeX i w).fds = s.fds := rfl
@[simp] theorem State.writeX_trace (s : State) (i : RegNum) (w : Word) : (s.writeX i w).trace = s.trace := rfl
@[simp] theorem State.writeX_hostInput (s : State) (i : RegNum) (w : Word) : (s.writeX i w).hostInput = s.hostInput := rfl
@[simp] theorem State.writeX_hostAsked (s : State) (i : RegNum) (w : Word) : (s.writeX i w).hostAsked = s.hostAsked := rfl
@[simp] theorem State.writeX_freeDraws (s : State) (i : RegNum) (w : Word) : (s.writeX i w).freeDraws = s.freeDraws := rfl

/-! ### `writeV` -/

@[simp] theorem State.writeV_x (s : State) (i : RegNum) (w : VWord) : (s.writeV i w).x = s.x := rfl
@[simp] theorem State.writeV_pc (s : State) (i : RegNum) (w : VWord) : (s.writeV i w).pc = s.pc := rfl
@[simp] theorem State.writeV_hi (s : State) (i : RegNum) (w : VWord) : (s.writeV i w).hi = s.hi := rfl
@[simp] theorem State.writeV_lo (s : State) (i : RegNum) (w : VWord) : (s.writeV i w).lo = s.lo := rfl
@[simp] theorem State.writeV_v (s : State) (i : RegNum) (w : VWord) : (s.writeV i w).v = s.v.set i.toNat w i.isLt := rfl
@[simp] theorem State.writeV_kernel (s : State) (i : RegNum) (w : VWord) : (s.writeV i w).kernel = s.kernel := rfl
@[simp] theorem State.writeV_op (s : State) (i : RegNum) (w : VWord) : (s.writeV i w).op = s.op := rfl
@[simp] theorem State.writeV_exitCode (s : State) (i : RegNum) (w : VWord) : (s.writeV i w).exitCode = s.exitCode := rfl
@[simp] theorem State.writeV_segments (s : State) (i : RegNum) (w : VWord) : (s.writeV i w).segments = s.segments := rfl
@[simp] theorem State.writeV_mem (s : State) (i : RegNum) (w : VWord) : (s.writeV i w).mem = s.mem := rfl
@[simp] theorem State.writeV_fds (s : State) (i : RegNum) (w : VWord) : (s.writeV i w).fds = s.fds := rfl
@[simp] theorem State.writeV_trace (s : State) (i : RegNum) (w : VWord) : (s.writeV i w).trace = s.trace := rfl
@[simp] theorem State.writeV_hostInput (s : State) (i : RegNum) (w : VWord) : (s.writeV i w).hostInput = s.hostInput := rfl
@[simp] theorem State.writeV_hostAsked (s : State) (i : RegNum) (w : VWord) : (s.writeV i w).hostAsked = s.hostAsked := rfl
@[simp] theorem State.writeV_freeDraws (s : State) (i : RegNum) (w : VWord) : (s.writeV i w).freeDraws = s.freeDraws := rfl

/-! ### `setPc` -/

@[simp] theorem State.setPc_x (s : State) (a : Word) : (s.setPc a).x = s.x := rfl
@[simp] theorem State.setPc_pc (s : State) (a : Word) : (s.setPc a).pc = a := rfl
@[simp] theorem State.setPc_hi (s : State) (a : Word) : (s.setPc a).hi = s.hi := rfl
@[simp] theorem State.setPc_lo (s : State) (a : Word) : (s.setPc a).lo = s.lo := rfl
@[simp] theorem State.setPc_v (s : State) (a : Word) : (s.setPc a).v = s.v := rfl
@[simp] theorem State.setPc_kernel (s : State) (a : Word) : (s.setPc a).kernel = s.kernel := rfl
@[simp] theorem State.setPc_op (s : State) (a : Word) : (s.setPc a).op = s.op := rfl
@[simp] theorem State.setPc_exitCode (s : State) (a : Word) : (s.setPc a).exitCode = s.exitCode := rfl
@[simp] theorem State.setPc_segments (s : State) (a : Word) : (s.setPc a).segments = s.segments := rfl
@[simp] theorem State.setPc_mem (s : State) (a : Word) : (s.setPc a).mem = s.mem := rfl
@[simp] theorem State.setPc_fds (s : State) (a : Word) : (s.setPc a).fds = s.fds := rfl
@[simp] theorem State.setPc_trace (s : State) (a : Word) : (s.setPc a).trace = s.trace := rfl
@[simp] theorem State.setPc_hostInput (s : State) (a : Word) : (s.setPc a).hostInput = s.hostInput := rfl
@[simp] theorem State.setPc_hostAsked (s : State) (a : Word) : (s.setPc a).hostAsked = s.hostAsked := rfl
@[simp] theorem State.setPc_freeDraws (s : State) (a : Word) : (s.setPc a).freeDraws = s.freeDraws := rfl

/-! ### `setHiLo` -/

@[simp] theorem State.setHiLo_x (s : State) (h l : Word) : (s.setHiLo h l).x = s.x := rfl
@[simp] theorem State.setHiLo_pc (s : State) (h l : Word) : (s.setHiLo h l).pc = s.pc := rfl
@[simp] theorem State.setHiLo_hi (s : State) (h l : Word) : (s.setHiLo h l).hi = h := rfl
@[simp] theorem State.setHiLo_lo (s : State) (h l : Word) : (s.setHiLo h l).lo = l := rfl
@[simp] theorem State.setHiLo_v (s : State) (h l : Word) : (s.setHiLo h l).v = s.v := rfl
@[simp] theorem State.setHiLo_kernel (s : State) (h l : Word) : (s.setHiLo h l).kernel = s.kernel := rfl
@[simp] theorem State.setHiLo_op (s : State) (h l : Word) : (s.setHiLo h l).op = s.op := rfl
@[simp] theorem State.setHiLo_exitCode (s : State) (h l : Word) : (s.setHiLo h l).exitCode = s.exitCode := rfl
@[simp] theorem State.setHiLo_segments (s : State) (h l : Word) : (s.setHiLo h l).segments = s.segments := rfl
@[simp] theorem State.setHiLo_mem (s : State) (h l : Word) : (s.setHiLo h l).mem = s.mem := rfl
@[simp] theorem State.setHiLo_fds (s : State) (h l : Word) : (s.setHiLo h l).fds = s.fds := rfl
@[simp] theorem State.setHiLo_trace (s : State) (h l : Word) : (s.setHiLo h l).trace = s.trace := rfl
@[simp] theorem State.setHiLo_hostInput (s : State) (h l : Word) : (s.setHiLo h l).hostInput = s.hostInput := rfl
@[simp] theorem State.setHiLo_hostAsked (s : State) (h l : Word) : (s.setHiLo h l).hostAsked = s.hostAsked := rfl
@[simp] theorem State.setHiLo_freeDraws (s : State) (h l : Word) : (s.setHiLo h l).freeDraws = s.freeDraws := rfl

/-! ### `raise` -/

@[simp] theorem State.raise_x (s : State) (c : Condition) : (s.raise c).x = s.x := rfl
@[simp] theorem State.raise_pc (s : State) (c : Condition) : (s.raise c).pc = s.pc := rfl
@[simp] theorem State.raise_hi (s : State) (c : Condition) : (s.raise c).hi = s.hi := rfl
@[simp] theorem State.raise_lo (s : State) (c : Condition) : (s.raise c).lo = s.lo := rfl
@[simp] theorem State.raise_v (s : State) (c : Condition) : (s.raise c).v = s.v := rfl
@[simp] theorem State.raise_kernel (s : State) (c : Condition) : (s.raise c).kernel = s.kernel := rfl
@[simp] theorem State.raise_op (s : State) (c : Condition) : (s.raise c).op = .faulted c := rfl
@[simp] theorem State.raise_exitCode (s : State) (c : Condition) : (s.raise c).exitCode = s.exitCode := rfl
@[simp] theorem State.raise_segments (s : State) (c : Condition) : (s.raise c).segments = s.segments := rfl
@[simp] theorem State.raise_mem (s : State) (c : Condition) : (s.raise c).mem = s.mem := rfl
@[simp] theorem State.raise_fds (s : State) (c : Condition) : (s.raise c).fds = s.fds := rfl
@[simp] theorem State.raise_trace (s : State) (c : Condition) : (s.raise c).trace = s.trace := rfl
@[simp] theorem State.raise_hostInput (s : State) (c : Condition) : (s.raise c).hostInput = s.hostInput := rfl
@[simp] theorem State.raise_hostAsked (s : State) (c : Condition) : (s.raise c).hostAsked = s.hostAsked := rfl
@[simp] theorem State.raise_freeDraws (s : State) (c : Condition) : (s.raise c).freeDraws = s.freeDraws := rfl

/-! ### `halt` -/

@[simp] theorem State.halt_x (s : State) (code : Word) : (s.halt code).x = s.x := rfl
@[simp] theorem State.halt_pc (s : State) (code : Word) : (s.halt code).pc = s.pc := rfl
@[simp] theorem State.halt_hi (s : State) (code : Word) : (s.halt code).hi = s.hi := rfl
@[simp] theorem State.halt_lo (s : State) (code : Word) : (s.halt code).lo = s.lo := rfl
@[simp] theorem State.halt_v (s : State) (code : Word) : (s.halt code).v = s.v := rfl
@[simp] theorem State.halt_kernel (s : State) (code : Word) : (s.halt code).kernel = s.kernel := rfl
@[simp] theorem State.halt_op (s : State) (code : Word) : (s.halt code).op = .halted := rfl
@[simp] theorem State.halt_exitCode (s : State) (code : Word) : (s.halt code).exitCode = code := rfl
@[simp] theorem State.halt_segments (s : State) (code : Word) : (s.halt code).segments = s.segments := rfl
@[simp] theorem State.halt_mem (s : State) (code : Word) : (s.halt code).mem = s.mem := rfl
@[simp] theorem State.halt_fds (s : State) (code : Word) : (s.halt code).fds = s.fds := rfl
@[simp] theorem State.halt_trace (s : State) (code : Word) : (s.halt code).trace = s.trace := rfl
@[simp] theorem State.halt_hostInput (s : State) (code : Word) : (s.halt code).hostInput = s.hostInput := rfl
@[simp] theorem State.halt_hostAsked (s : State) (code : Word) : (s.halt code).hostAsked = s.hostAsked := rfl
@[simp] theorem State.halt_freeDraws (s : State) (code : Word) : (s.halt code).freeDraws = s.freeDraws := rfl

/-! ### `emit` -/

@[simp] theorem State.emit_x (s : State) (e : HostEvent) : (s.emit e).x = s.x := rfl
@[simp] theorem State.emit_pc (s : State) (e : HostEvent) : (s.emit e).pc = s.pc := rfl
@[simp] theorem State.emit_hi (s : State) (e : HostEvent) : (s.emit e).hi = s.hi := rfl
@[simp] theorem State.emit_lo (s : State) (e : HostEvent) : (s.emit e).lo = s.lo := rfl
@[simp] theorem State.emit_v (s : State) (e : HostEvent) : (s.emit e).v = s.v := rfl
@[simp] theorem State.emit_kernel (s : State) (e : HostEvent) : (s.emit e).kernel = s.kernel := rfl
@[simp] theorem State.emit_op (s : State) (e : HostEvent) : (s.emit e).op = s.op := rfl
@[simp] theorem State.emit_exitCode (s : State) (e : HostEvent) : (s.emit e).exitCode = s.exitCode := rfl
@[simp] theorem State.emit_segments (s : State) (e : HostEvent) : (s.emit e).segments = s.segments := rfl
@[simp] theorem State.emit_mem (s : State) (e : HostEvent) : (s.emit e).mem = s.mem := rfl
@[simp] theorem State.emit_fds (s : State) (e : HostEvent) : (s.emit e).fds = s.fds := rfl
@[simp] theorem State.emit_trace (s : State) (e : HostEvent) : (s.emit e).trace = s.trace ++ [e] := rfl
@[simp] theorem State.emit_hostInput (s : State) (e : HostEvent) : (s.emit e).hostInput = s.hostInput := rfl
@[simp] theorem State.emit_hostAsked (s : State) (e : HostEvent) : (s.emit e).hostAsked = s.hostAsked := rfl
@[simp] theorem State.emit_freeDraws (s : State) (e : HostEvent) : (s.emit e).freeDraws = s.freeDraws := rfl

/-! ### `asked` -/

@[simp] theorem State.asked_x (s : State) : (s.asked).x = s.x := rfl
@[simp] theorem State.asked_pc (s : State) : (s.asked).pc = s.pc := rfl
@[simp] theorem State.asked_hi (s : State) : (s.asked).hi = s.hi := rfl
@[simp] theorem State.asked_lo (s : State) : (s.asked).lo = s.lo := rfl
@[simp] theorem State.asked_v (s : State) : (s.asked).v = s.v := rfl
@[simp] theorem State.asked_kernel (s : State) : (s.asked).kernel = s.kernel := rfl
@[simp] theorem State.asked_op (s : State) : (s.asked).op = s.op := rfl
@[simp] theorem State.asked_exitCode (s : State) : (s.asked).exitCode = s.exitCode := rfl
@[simp] theorem State.asked_segments (s : State) : (s.asked).segments = s.segments := rfl
@[simp] theorem State.asked_mem (s : State) : (s.asked).mem = s.mem := rfl
@[simp] theorem State.asked_fds (s : State) : (s.asked).fds = s.fds := rfl
@[simp] theorem State.asked_trace (s : State) : (s.asked).trace = s.trace := rfl
@[simp] theorem State.asked_hostInput (s : State) : (s.asked).hostInput = s.hostInput.tail := rfl
@[simp] theorem State.asked_hostAsked (s : State) : (s.asked).hostAsked = s.hostAsked + 1 := rfl
@[simp] theorem State.asked_freeDraws (s : State) : (s.asked).freeDraws = s.freeDraws := rfl

/-! ### `drew` -/

@[simp] theorem State.drew_x (s : State) (n : Nat) : (s.drew n).x = s.x := rfl
@[simp] theorem State.drew_pc (s : State) (n : Nat) : (s.drew n).pc = s.pc := rfl
@[simp] theorem State.drew_hi (s : State) (n : Nat) : (s.drew n).hi = s.hi := rfl
@[simp] theorem State.drew_lo (s : State) (n : Nat) : (s.drew n).lo = s.lo := rfl
@[simp] theorem State.drew_v (s : State) (n : Nat) : (s.drew n).v = s.v := rfl
@[simp] theorem State.drew_kernel (s : State) (n : Nat) : (s.drew n).kernel = s.kernel := rfl
@[simp] theorem State.drew_op (s : State) (n : Nat) : (s.drew n).op = s.op := rfl
@[simp] theorem State.drew_exitCode (s : State) (n : Nat) : (s.drew n).exitCode = s.exitCode := rfl
@[simp] theorem State.drew_segments (s : State) (n : Nat) : (s.drew n).segments = s.segments := rfl
@[simp] theorem State.drew_mem (s : State) (n : Nat) : (s.drew n).mem = s.mem := rfl
@[simp] theorem State.drew_fds (s : State) (n : Nat) : (s.drew n).fds = s.fds := rfl
@[simp] theorem State.drew_trace (s : State) (n : Nat) : (s.drew n).trace = s.trace := rfl
@[simp] theorem State.drew_hostInput (s : State) (n : Nat) : (s.drew n).hostInput = s.hostInput := rfl
@[simp] theorem State.drew_hostAsked (s : State) (n : Nat) : (s.drew n).hostAsked = s.hostAsked := rfl
@[simp] theorem State.drew_freeDraws (s : State) (n : Nat) : (s.drew n).freeDraws = s.freeDraws + n := rfl

/-! ### `growHeap` -/

@[simp] theorem State.growHeap_x (s : State) (limit : Nat) : (s.growHeap limit).x = s.x := rfl
@[simp] theorem State.growHeap_pc (s : State) (limit : Nat) : (s.growHeap limit).pc = s.pc := rfl
@[simp] theorem State.growHeap_hi (s : State) (limit : Nat) : (s.growHeap limit).hi = s.hi := rfl
@[simp] theorem State.growHeap_lo (s : State) (limit : Nat) : (s.growHeap limit).lo = s.lo := rfl
@[simp] theorem State.growHeap_v (s : State) (limit : Nat) : (s.growHeap limit).v = s.v := rfl
@[simp] theorem State.growHeap_kernel (s : State) (limit : Nat) : (s.growHeap limit).kernel = s.kernel := rfl
@[simp] theorem State.growHeap_op (s : State) (limit : Nat) : (s.growHeap limit).op = s.op := rfl
@[simp] theorem State.growHeap_exitCode (s : State) (limit : Nat) : (s.growHeap limit).exitCode = s.exitCode := rfl
@[simp] theorem State.growHeap_segments (s : State) (limit : Nat) : (s.growHeap limit).segments = { s.segments with heap := { s.segments.heap with size := limit - s.segments.heap.min } } := rfl
@[simp] theorem State.growHeap_mem (s : State) (limit : Nat) : (s.growHeap limit).mem = s.mem.clear s.brk limit := rfl
@[simp] theorem State.growHeap_fds (s : State) (limit : Nat) : (s.growHeap limit).fds = s.fds := rfl
@[simp] theorem State.growHeap_trace (s : State) (limit : Nat) : (s.growHeap limit).trace = s.trace := rfl
@[simp] theorem State.growHeap_hostInput (s : State) (limit : Nat) : (s.growHeap limit).hostInput = s.hostInput := rfl
@[simp] theorem State.growHeap_hostAsked (s : State) (limit : Nat) : (s.growHeap limit).hostAsked = s.hostAsked := rfl
@[simp] theorem State.growHeap_freeDraws (s : State) (limit : Nat) : (s.growHeap limit).freeDraws = s.freeDraws := rfl

end Sys2Proof.Machine
end

