-- ==== Sys2Proof/Laws/Registers.lean ====
section
/-! SUPPORT. Reads of registers after each update. -/

namespace Sys2Proof.Machine

/-- Register 0 reads as 0 (10/R21). -/
@[simp] theorem State.readX_zero (s : State) : s.readX 0#5 = 0#64 := rfl

theorem State.readX_nonzero (s : State) {i : RegNum} (h : i ≠ 0#5) : s.readX i = s.x[i.toNat]'i.isLt := if_neg h

/-- A register reads as written, but for register 0 (10/R21). -/
theorem State.readX_writeX_same (s : State) (i : RegNum) (w : Word) :
    (s.writeX i w).readX i = if i = 0#5 then 0 else w := by
  unfold State.readX
  split
  · rfl
  · next h => simp [State.writeX, h]

/-- A write leaves every other register alone. -/
theorem State.readX_writeX_other (s : State) (i : RegNum) (w : Word) (j : RegNum) (h : j ≠ i) :
    (s.writeX i w).readX j = s.readX j := by
  unfold State.readX
  split
  · rfl
  · have : i.toNat ≠ j.toNat := fun e => h (BitVec.eq_of_toNat_eq e.symm)
    by_cases hi : i = 0#5 <;> simp [State.writeX, hi, this]

/-- Any register after a write. -/
theorem State.readX_writeX (s : State) (i : RegNum) (w : Word) (j : RegNum) :
    (s.writeX i w).readX j = if j = i then (if i = 0#5 then 0 else w) else s.readX j := by
  split
  · next h => subst h; exact s.readX_writeX_same _ w
  · next h => exact s.readX_writeX_other i w j h

/-- Registers depend on nothing but the register file. -/
theorem State.readX_congr {s t : State} (h : t.x = s.x) (i : RegNum) : t.readX i = s.readX i := by
  unfold State.readX; simp only [h]

@[simp] theorem State.readX_writeV (s : State) (i : RegNum) (w : VWord) (j : RegNum) : (s.writeV i w).readX j = s.readX j := rfl
@[simp] theorem State.readX_setPc (s : State) (a : Word) (j : RegNum) : (s.setPc a).readX j = s.readX j := rfl
@[simp] theorem State.readX_setHiLo (s : State) (h l : Word) (j : RegNum) : (s.setHiLo h l).readX j = s.readX j := rfl
@[simp] theorem State.readX_raise (s : State) (c : Condition) (j : RegNum) : (s.raise c).readX j = s.readX j := rfl
@[simp] theorem State.readX_halt (s : State) (c : Word) (j : RegNum) : (s.halt c).readX j = s.readX j := rfl
@[simp] theorem State.readX_emit (s : State) (e : HostEvent) (j : RegNum) : (s.emit e).readX j = s.readX j := rfl
@[simp] theorem State.readX_asked (s : State) (j : RegNum) : s.asked.readX j = s.readX j := rfl
@[simp] theorem State.readX_drew (s : State) (n : Nat) (j : RegNum) : (s.drew n).readX j = s.readX j := rfl
@[simp] theorem State.readX_growHeap (s : State) (n : Nat) (j : RegNum) : (s.growHeap n).readX j = s.readX j := rfl

/-- A vector register reads as written (10/R28). -/
@[simp] theorem State.readV_writeV_same (s : State) (i : RegNum) (w : VWord) : (s.writeV i w).readV i = w := by
  simp [State.readV, State.writeV]

theorem State.readV_writeV_other (s : State) (i : RegNum) (w : VWord) (j : RegNum) (h : j ≠ i) :
    (s.writeV i w).readV j = s.readV j := by
  have : i.toNat ≠ j.toNat := fun e => h (BitVec.eq_of_toNat_eq e.symm)
  simp [State.readV, State.writeV, this]

theorem State.readV_congr {s t : State} (h : t.v = s.v) (i : RegNum) : t.readV i = s.readV i := by
  unfold State.readV; simp only [h]

@[simp] theorem State.readV_writeX (s : State) (i : RegNum) (w : Word) (j : RegNum) : (s.writeX i w).readV j = s.readV j := rfl
@[simp] theorem State.readV_setPc (s : State) (a : Word) (j : RegNum) : (s.setPc a).readV j = s.readV j := rfl
@[simp] theorem State.readV_raise (s : State) (c : Condition) (j : RegNum) : (s.raise c).readV j = s.readV j := rfl
@[simp] theorem State.readV_drew (s : State) (n : Nat) (j : RegNum) : (s.drew n).readV j = s.readV j := rfl

/-! ### Bytes -/

@[simp] theorem State.byteAt_writeX (s : State) (i : RegNum) (w : Word) (a : Nat) : (s.writeX i w).byteAt a = s.byteAt a := rfl
@[simp] theorem State.byteAt_writeV (s : State) (i : RegNum) (w : VWord) (a : Nat) : (s.writeV i w).byteAt a = s.byteAt a := rfl
@[simp] theorem State.byteAt_setPc (s : State) (p : Word) (a : Nat) : (s.setPc p).byteAt a = s.byteAt a := rfl
@[simp] theorem State.byteAt_setHiLo (s : State) (h l : Word) (a : Nat) : (s.setHiLo h l).byteAt a = s.byteAt a := rfl
@[simp] theorem State.byteAt_raise (s : State) (c : Condition) (a : Nat) : (s.raise c).byteAt a = s.byteAt a := rfl
@[simp] theorem State.byteAt_drew (s : State) (n : Nat) (a : Nat) : (s.drew n).byteAt a = s.byteAt a := rfl
@[simp] theorem State.byteAt_emit (s : State) (e : HostEvent) (a : Nat) : (s.emit e).byteAt a = s.byteAt a := rfl
@[simp] theorem State.byteAt_asked (s : State) (a : Nat) : s.asked.byteAt a = s.byteAt a := rfl
@[simp] theorem State.byteAt_halt (s : State) (c : Word) (a : Nat) : (s.halt c).byteAt a = s.byteAt a := rfl

end Sys2Proof.Machine
end

