-- ==== Sys2Proof/Laws/Frames.lean ====
section
/-! SUPPORT. What each shared operation changes and leaves alone, in the terms of Safety: one lemma for each,
which the proofs about instructions cite instead of unfolding it. -/

namespace Sys2Proof.Machine

theorem SystemKept.rfl_of {s t : State} (h : t = s) : SystemKept s t := by subst h; exact ⟨rfl, rfl, rfl, rfl, rfl, rfl, rfl, rfl⟩

/-- A write of a general register. -/
theorem writesX_writeX (s : State) (d : RegNum) (w : Word) : WritesX s (s.writeX d w) d w 0 where
  result := s.readX_writeX_same d w
  others r h := s.readX_writeX_other d w r h
  vectors _ := rfl
  hi := rfl
  lo := rfl
  pc := rfl
  bytes _ := rfl
  draws := rfl
  system := ⟨rfl, rfl, rfl, rfl, rfl, rfl, rfl, rfl⟩

/-- A write of a general register after which free values are used up. -/
theorem writesX_writeX_drew (s : State) (d : RegNum) (w : Word) (n : Nat) :
    WritesX s ((s.writeX d w).drew n) d w n where
  result := s.readX_writeX_same d w
  others r h := s.readX_writeX_other d w r h
  vectors _ := rfl
  hi := rfl
  lo := rfl
  pc := rfl
  bytes _ := rfl
  draws := rfl
  system := ⟨rfl, rfl, rfl, rfl, rfl, rfl, rfl, rfl⟩

/-- A write of a vector register after which free values are used up. -/
theorem writesV_writeV_drew (s : State) (d : RegNum) (w : VWord) (n : Nat) :
    WritesV s ((s.writeV d w).drew n) d w n where
  result := by simp
  others r h := by simpa using s.readV_writeV_other d w r h
  general _ := rfl
  hi := rfl
  lo := rfl
  pc := rfl
  bytes _ := rfl
  draws := rfl
  system := ⟨rfl, rfl, rfl, rfl, rfl, rfl, rfl, rfl⟩

/-- A write of a vector register. -/
theorem writesV_writeV (s : State) (d : RegNum) (w : VWord) : WritesV s (s.writeV d w) d w 0 :=
  writesV_writeV_drew s d w 0

/-- A vector register written lane by lane. -/
theorem writesLanes_drew {w : Nat} (s : State) (d : RegNum) (f : Nat → BitVec w) (n : Nat) :
    WritesLanes w s ((s.writeV d (ofLanes w f)).drew n) d f n :=
  ⟨_, writesV_writeV_drew s d _ n, fun k hk => lane_ofLanes f k hk⟩

theorem writesLanes_writeV {w : Nat} (s : State) (d : RegNum) (f : Nat → BitVec w) :
    WritesLanes w s (s.writeV d (ofLanes w f)) d f 0 := writesLanes_drew s d f 0

/-- A lane of a shuffle is the source lane that its index, at the place of `SHUF_PACK`, names. -/
theorem lane_shuffleLanes {w k : Nat} (pack : IndexPacking) (a : VWord) (c : Word) (hk : k < laneCount w) :
    lane w k (shuffleLanes w pack a c) = lane w (c.extractLsb' (pack.lsb k) pack.bits).toNat a :=
  lane_ofLanes _ k hk

/-- The lanes of a lane-wise write may be named by any function that agrees on them. -/
theorem WritesLanes.congr {w : Nat} {s t : State} {d : RegNum} {f g : Nat → BitVec w} {n : Nat}
    (h : WritesLanes w s t d f n) (e : ∀ k, k < 256 / w → f k = g k) : WritesLanes w s t d g n := by
  obtain ⟨r, hr, hl⟩ := h
  exact ⟨r, hr, fun k hk => (hl k hk).trans (e k hk)⟩

/-- A write of `hi` and `lo`. -/
theorem writesHiLo_setHiLo (s : State) (h l : Word) : WritesHiLo s (s.setHiLo h l) h l :=
  ⟨rfl, rfl, fun _ => rfl, fun _ => rfl, rfl, fun _ => rfl, rfl, ⟨rfl, rfl, rfl, rfl, rfl, rfl, rfl, rfl⟩⟩

/-- A write of `pc`. -/
theorem movesPc_setPc (s : State) (p : Word) : MovesPc s (s.setPc p) p :=
  ⟨rfl, fun _ => rfl, fun _ => rfl, rfl, rfl, fun _ => rfl, rfl, ⟨rfl, rfl, rfl, rfl, rfl, rfl, rfl, rfl⟩⟩

/-- No change at all. -/
theorem movesPc_self (s : State) : MovesPc s s s.pc :=
  ⟨rfl, fun _ => rfl, fun _ => rfl, rfl, rfl, fun _ => rfl, rfl, ⟨rfl, rfl, rfl, rfl, rfl, rfl, rfl, rfl⟩⟩

/-- A linking transfer. -/
theorem links_linkTo (s : State) (p : Word) : Links s (linkTo p s) p s.pc where
  pc := rfl
  link := (s.readX_writeX_same 31#5 s.pc).trans (if_neg (by decide))
  others r h := s.readX_writeX_other 31#5 s.pc r h
  vectors _ := rfl
  hi := rfl
  lo := rfl
  bytes _ := rfl
  draws := rfl
  system := ⟨rfl, rfl, rfl, rfl, rfl, rfl, rfl, rfl⟩

/-! ### Checked accesses -/

theorem memRead_ok {s : State} {a : Word} {n : Nat} (h : Accessible s .read a n) :
    s.memRead a n = .ok (s.mem.load a.toNat n) := by
  unfold State.memRead; rw [show s.accessFault .read a n = none from h]

theorem memRead_error {s : State} {a : Word} {n : Nat} {c : Condition} (h : s.accessFault .read a n = some c) :
    s.memRead a n = .error c := by
  unfold State.memRead; rw [h]

theorem memWrite_ok {s : State} {a : Word} {n : Nat} (w : BitVec (8 * n)) (h : Accessible s .write a n) :
    s.memWrite a n w = .ok { s with mem := s.mem.store a.toNat n w } := by
  unfold State.memWrite; rw [show s.accessFault .write a n = none from h]

theorem memWrite_error {s : State} {a : Word} {n : Nat} (w : BitVec (8 * n)) {c : Condition}
    (h : s.accessFault .write a n = some c) : s.memWrite a n w = .error c := by
  unfold State.memWrite; rw [h]

theorem memFetch_ok {s : State} {a : Word} (h : Accessible s .fetch a 4) :
    s.memFetch a = .ok (s.mem.load a.toNat 4) := by
  unfold State.memFetch; rw [show s.accessFault .fetch a 4 = none from h]

theorem memFetch_error {s : State} {a : Word} {c : Condition} (h : s.accessFault .fetch a 4 = some c) :
    s.memFetch a = .error c := by
  unfold State.memFetch; rw [h]

/-- What a load answers lies at its address (20/R69). -/
theorem holdsValue_load (s : State) (a n : Nat) : HoldsValue s a n (s.mem.load a n) :=
  fun j h => Memory.load_byte s.mem a n j h

/-- Two values with the same bytes are the same. -/
theorem eq_of_bytes {n : Nat} (v w : BitVec (8 * n))
    (h : ∀ j, j < n → v.extractLsb' (8 * j) 8 = w.extractLsb' (8 * j) 8) : v = w := by
  apply BitVec.eq_of_getLsbD_eq
  intro i hi
  have := congrArg (fun x => x.getLsbD (i % 8)) (h (i / 8) (by omega))
  simp only [BitVec.getLsbD_extractLsb'] at this
  have e : 8 * (i / 8) + i % 8 = i := by omega
  rw [e] at this
  simpa [show i % 8 < 8 by omega] using this

/-- The value at an address is the one its bytes give. -/
theorem HoldsValue.eq_load {s : State} {a n : Nat} {v : BitVec (8 * n)} (h : HoldsValue s a n v) :
    s.mem.load a n = v :=
  eq_of_bytes _ _ fun j hj => (Memory.load_byte s.mem a n j hj).trans (h j hj).symm

/-- A store that passes its checks, in a canonical memory. -/
theorem writesBytes_store (s : State) (a n : Nat) (w : BitVec (8 * n)) (hm : Memory.wf s.mem) :
    WritesBytes s { s with mem := s.mem.store a n w } a n w where
  stored j h := Memory.read_store_inside s.mem hm a n w j h
  outside b h := Memory.read_store_outside s.mem a n w b h
  general _ := rfl
  vectors _ := rfl
  hi := rfl
  lo := rfl
  pc := rfl
  draws := rfl
  system := ⟨rfl, rfl, rfl, rfl, rfl, rfl, rfl, rfl⟩

/-- Everything a load does. -/
theorem loadOp_spec (i : Instr) (s : State) (n : Nat) (extend : BitVec (8 * n) → Word) (a : Word) (d : RegNum)
    (h : exec i s = .next (loadOp n extend a d s)) : LoadsValue i s n a d extend := by
  refine ⟨fun ok => ⟨_, _, h, holdsValue_load s a.toNat n, ?_⟩, fun c e => ?_⟩
  · unfold loadOp; rw [memRead_ok ok]; exact writesX_writeX s d _
  · rw [h]; unfold loadOp; rw [memRead_error e]; rfl

/-- Everything a store does. -/
theorem storeOp_spec (i : Instr) (s : State) (n : Nat) (a : Word) (r : RegNum) (hm : Memory.wf s.mem)
    (h : exec i s = .next (storeOp n a r s)) : StoresValue i s n a ((s.readX r).setWidth (8 * n)) := by
  refine ⟨fun ok => ⟨_, h, ?_⟩, fun c e => ?_⟩
  · unfold storeOp; rw [memWrite_ok _ ok]; exact writesBytes_store s a.toNat n _ hm
  · rw [h]; unfold storeOp; rw [memWrite_error _ e]; rfl

end Sys2Proof.Machine
end

