-- ==== Sys2Proof/Laws/Effects.lean ====
section
/-! SUPPORT. What an instruction can do at all: the cases of a step and of `exec`, from which the statements about
every instruction follow. -/

namespace Sys2Proof.Machine

/-! ### The segment of an address -/

/-- When two segments share a byte (20/R61). -/
theorem Segment.overlaps_iff (g h : Segment) : g.overlaps h = true ↔
    0 < g.size ∧ 0 < h.size ∧ g.min < h.min + h.size ∧ h.min < g.min + g.size := by
  unfold Segment.overlaps
  simp only [Bool.and_eq_true, decide_eq_true_eq]
  exact Iff.rfl

/-- With segments that do not overlap, the lookup of a byte finds the segment that holds it (20/R67). -/
theorem lookup_of_mem (g : SegmentMap) (hd : g.disjoint = true) (seg : Segment) (hs : seg ∈ g.all) (a : Nat)
    (h1 : seg.min ≤ a) (h2 : a < seg.min + seg.size) : g.lookup a = some seg := by
  have hp : g.all.Pairwise fun a b => a.overlaps b = false := of_decide_eq_true hd
  unfold SegmentMap.lookup
  generalize g.all = l at hs hp
  induction l with
  | nil => simp at hs
  | cons x l ih =>
    rw [List.pairwise_cons] at hp
    rcases List.mem_cons.mp hs with rfl | hs
    · rw [List.find?_cons_of_pos]
      unfold Segment.contains Segment.limit
      simp
      omega
    · rw [List.find?_cons_of_neg, ih hs hp.2]
      have := hp.1 seg hs
      unfold Segment.overlaps at this
      unfold Segment.contains
      unfold Segment.limit at *
      simp at this ⊢
      omega

/-- An access that passes its checks lies in one segment with the flag (20/R68). -/
theorem Accessible.segment {s : State} {k : AccessKind} {a : Word} {n : Nat} (h : Accessible s k a n) :
    ∃ g ∈ s.segments.all, s.segments.lookup a.toNat = some g ∧ g.allows k = true ∧ g.min ≤ a.toNat ∧
      a.toNat < g.min + g.size ∧ a.toNat + n ≤ g.min + g.size ∧ a.toNat + n ≤ 2 ^ 64 := by
  unfold Accessible State.accessFault SegmentMap.check at h
  rw [Option.map_eq_none_iff] at h
  split at h
  · cases h
  · next g hl =>
    refine ⟨g, List.mem_of_find?_eq_some hl, hl, ?_⟩
    have hc := List.find?_some hl
    unfold Segment.contains Segment.limit at hc
    simp at hc
    split at h
    · next ha =>
      split at h
      · next hv =>
        unfold Segment.covers Segment.limit at hv
        simp at hv
        exact ⟨ha, hc.2.1, hc.2.2, hv.2.1, hv.2.2⟩
      · cases h
    · cases h

/-- The checks depend on nothing but the segment table. -/
theorem accessFault_congr {s t : State} (h : t.segments = s.segments) (k : AccessKind) (a : Word) (n : Nat) :
    t.accessFault k a n = s.accessFault k a n := by unfold State.accessFault; rw [h]

/-- A condition of an access names its kind and its address (60/R415). -/
theorem accessFault_eq {s : State} {k : AccessKind} {a : Word} {n : Nat} {c : Condition}
    (h : s.accessFault k a n = some c) : ∃ kind, c = .segFault kind a k := by
  unfold State.accessFault at h
  obtain ⟨kind, _, rfl⟩ := Option.map_eq_some_iff.mp h
  exact ⟨kind, rfl⟩

/-! ### The cases of `exec` -/

/-- From `s` to `t` at most registers, `hi`, `lo`, `pc` and the count of free values changed. -/
structure RegistersOnly (s t : State) : Prop where
  kernel : t.kernel = s.kernel
  op : t.op = s.op
  exitCode : t.exitCode = s.exitCode
  segments : t.segments = s.segments
  mem : t.mem = s.mem
  fds : t.fds = s.fds
  trace : t.trace = s.trace
  hostInput : t.hostInput = s.hostInput
  hostAsked : t.hostAsked = s.hostAsked

/-- Everything an instruction other than `syscall` can do. -/
inductive Effect (s : State) : State → Prop where
  /-- registers only -/
  | registers {t : State} (h : RegistersOnly s t) : Effect s t
  /-- a fatal condition that is not one of the fetch, and nothing else -/
  | raises (c : Condition) (h : ∀ kind a, c ≠ .segFault kind a .fetch) : Effect s (s.raise c)
  /-- a store that passed its checks -/
  | stores (a : Word) (n : Nat) (w : BitVec (8 * n)) (h : Accessible s .write a n) :
      Effect s { s with mem := s.mem.store a.toNat n w }

theorem effect_writeX (s : State) (d : RegNum) (w : Word) : Effect s (s.writeX d w) :=
  .registers ⟨rfl, rfl, rfl, rfl, rfl, rfl, rfl, rfl, rfl⟩

theorem effect_writeV (s : State) (d : RegNum) (w : VWord) : Effect s (s.writeV d w) :=
  .registers ⟨rfl, rfl, rfl, rfl, rfl, rfl, rfl, rfl, rfl⟩

theorem effect_writeV_drew (s : State) (d : RegNum) (w : VWord) (n : Nat) : Effect s ((s.writeV d w).drew n) :=
  .registers ⟨rfl, rfl, rfl, rfl, rfl, rfl, rfl, rfl, rfl⟩

theorem effect_writeX_drew (s : State) (d : RegNum) (w : Word) (n : Nat) : Effect s ((s.writeX d w).drew n) :=
  .registers ⟨rfl, rfl, rfl, rfl, rfl, rfl, rfl, rfl, rfl⟩

theorem effect_setHiLo (s : State) (h l : Word) : Effect s (s.setHiLo h l) :=
  .registers ⟨rfl, rfl, rfl, rfl, rfl, rfl, rfl, rfl, rfl⟩

theorem effect_setPc (s : State) (p : Word) : Effect s (s.setPc p) :=
  .registers ⟨rfl, rfl, rfl, rfl, rfl, rfl, rfl, rfl, rfl⟩

theorem effect_self (s : State) : Effect s s := .registers ⟨rfl, rfl, rfl, rfl, rfl, rfl, rfl, rfl, rfl⟩

theorem effect_linkTo (s : State) (p : Word) : Effect s (linkTo p s) :=
  .registers ⟨rfl, rfl, rfl, rfl, rfl, rfl, rfl, rfl, rfl⟩

theorem effect_loadOp (n : Nat) (e : BitVec (8 * n) → Word) (a : Word) (d : RegNum) (s : State) :
    Effect s (loadOp n e a d s) := by
  unfold loadOp
  cases h : s.accessFault .read a n with
  | none => rw [memRead_ok h]; exact effect_writeX _ _ _
  | some c =>
    rw [memRead_error h]
    obtain ⟨kind, rfl⟩ := accessFault_eq h
    exact .raises _ (by simp)

theorem effect_storeOp (n : Nat) (a : Word) (r : RegNum) (s : State) : Effect s (storeOp n a r s) := by
  unfold storeOp
  cases h : s.accessFault .write a n with
  | none => rw [memWrite_ok _ h]; exact .stores _ _ _ h
  | some c =>
    rw [memWrite_error _ h]
    obtain ⟨kind, rfl⟩ := accessFault_eq h
    exact .raises _ (by simp)

theorem effect_branchOp (rel : Word → Word → Bool) (rs rt : RegNum) (imm : BitVec 15) (s : State) :
    Effect s (branchOp rel rs rt imm s) := by
  unfold branchOp
  split
  · exact effect_setPc _ _
  · exact effect_self _

theorem effect_divideOp {w : Nat} (i : Instr) (e : BitVec w → Word) (r : Option (BitVec w × BitVec w)) (s : State) :
    Effect s (divideOp i e r s) := by
  unfold divideOp
  split
  · exact .raises _ (by simp)
  · exact effect_setHiLo _ _ _

theorem effect_vecDivideOp (w : Nat) (i : Instr) (rs rt rd : RegNum) (s : State) :
    Effect s (vecDivideOp w i rs rt rd s) := by
  unfold vecDivideOp
  split
  · exact .raises _ (by simp)
  · exact effect_writeV _ _ _

theorem effect_convertOp (i : Instr) (f : RoundMode → VWord) (n : Nat) (rt rd : RegNum) (s : State) :
    Effect s (convertOp i f n rt rd s) := by
  unfold convertOp
  split
  · exact .raises _ (by simp)
  · exact effect_writeV_drew _ _ _ _

/-- An instruction that answers a next state is `syscall`, or has one of the effects above. -/
theorem exec_cases (i : Instr) (s t : State) (h : exec i s = .next t) :
    (∃ addr, i = .syscall addr) ∨ Effect s t := by
  cases i with
  | syscall addr => exact .inl ⟨addr, rfl⟩
  | vld rs rt imm =>
    right
    cases hc : s.accessFault .read (offsetAddress s rs imm) 32 with
    | none =>
      simp only [exec, execVld, memRead_ok hc] at h
      cases h; exact effect_writeV _ _ _
    | some c =>
      simp only [exec, execVld, memRead_error hc] at h
      obtain ⟨kind, rfl⟩ := accessFault_eq hc
      cases h; exact .raises _ (by simp)
  | vst rs rt imm =>
    right
    cases hc : s.accessFault .write (offsetAddress s rs imm) 32 with
    | none =>
      simp only [exec, execVst, memWrite_ok _ hc] at h
      cases h; exact .stores _ _ _ hc
    | some c =>
      simp only [exec, execVst, memWrite_error _ hc] at h
      obtain ⟨kind, rfl⟩ := accessFault_eq hc
      cases h; exact .raises _ (by simp)
  | _ =>
    right
    cases h
    first
      | exact effect_writeX _ _ _
      | exact effect_writeV _ _ _
      | exact effect_setHiLo _ _ _
      | exact effect_setPc _ _
      | exact effect_self _
      | exact effect_linkTo _ _
      | exact effect_loadOp _ _ _ _ _
      | exact effect_storeOp _ _ _ _
      | exact effect_branchOp _ _ _ _ _
      | exact effect_divideOp _ _ _ _
      | exact effect_vecDivideOp _ _ _ _ _ _
      | exact effect_convertOp _ _ _ _ _ _
      | exact effect_writeV_drew _ _ _ _
      | exact effect_writeX_drew _ _ _ _

/-! ### The cases of a step -/

/-- Everything a step can do (30/R100): nothing where the machine is stopped; a failed fetch; an illegal word; or
the decoded instruction in the state with `pc` advanced. -/
theorem step_cases (s t : State) (h : step s = .next t) :
    (s.op ≠ .ready ∧ t = s) ∨
    (s.op = .ready ∧ ∃ c, s.accessFault .fetch s.pc 4 = some c ∧ t = s.raise c) ∨
    (s.op = .ready ∧ ∃ w, t = (s.setPc (s.pc + 4#64)).raise (.decodeError w)) ∨
    (s.op = .ready ∧ ∃ w i, HoldsValue s s.pc.toNat 4 w ∧ decode w = .ok i ∧
      exec i (s.setPc (s.pc + 4#64)) = .next t) := by
  unfold step State.fetchDecode at h
  cases ho : s.op with
  | halted => rw [ho] at h; cases h; exact .inl ⟨by simp, rfl⟩
  | faulted c => rw [ho] at h; cases h; exact .inl ⟨by simp, rfl⟩
  | ready =>
    right
    rw [ho] at h
    cases hf : s.accessFault .fetch s.pc 4 with
    | some c =>
      simp only [memFetch_error hf] at h
      cases h; exact .inl ⟨rfl, c, rfl, rfl⟩
    | none =>
      simp only [memFetch_ok hf] at h
      right
      cases hd : decode (s.mem.load s.pc.toNat 4) with
      | error e => rw [hd] at h; cases h; exact .inl ⟨rfl, _, rfl⟩
      | ok i => rw [hd] at h; exact .inr ⟨rfl, _, i, holdsValue_load s _ 4, hd, h⟩

end Sys2Proof.Machine
end

