-- ==== Sys2Proof/Laws/Buffers.lean ====
section
/-! SUPPORT. The byte sequences of the syscall services (46/R364): what a buffer read, a buffer write and the scan
of a string come to, said once for each. -/

namespace Sys2Proof.Machine

/-! ### Addresses of a buffer -/

theorem add_one_add (a : Word) (j : Nat) : a + 1#64 + BitVec.ofNat 64 j = a + BitVec.ofNat 64 (j + 1) := by
  rw [BitVec.add_assoc]; congr 1
  apply BitVec.eq_of_toNat_eq
  simp only [BitVec.toNat_add, BitVec.toNat_ofNat]
  omega

@[simp] theorem add_ofNat_zero (a : Word) : a + BitVec.ofNat 64 0 = a := by simp

/-- Addresses of a buffer shorter than the space are different. -/
theorem add_ofNat_ne (a : Word) (i j : Nat) (hi : i < 2 ^ 64) (hj : j < 2 ^ 64) (h : i ≠ j) :
    (a + BitVec.ofNat 64 i).toNat ≠ (a + BitVec.ofNat 64 j).toNat := by
  intro e
  have := BitVec.eq_of_toNat_eq e
  have := congrArg BitVec.toNat (BitVec.add_right_inj a |>.mp this)
  simp only [BitVec.toNat_ofNat] at this
  omega

theorem BufferAccessible.head {s : State} {k : AccessKind} {a : Word} {n : Nat}
    (h : BufferAccessible s k a (n + 1)) : Accessible s k a 1 := by simpa using h 0 (by omega)

theorem BufferAccessible.tail {s : State} {k : AccessKind} {a : Word} {n : Nat}
    (h : BufferAccessible s k a (n + 1)) : BufferAccessible s k (a + 1#64) n := fun j hj => by
  rw [add_one_add]; exact h (j + 1) (by omega)

theorem BufferStopsAt.tail {s : State} {k : AccessKind} {a : Word} {j : Nat} {c : Condition}
    (h : BufferStopsAt s k a (j + 1) c) : BufferStopsAt s k (a + 1#64) j c :=
  ⟨h.1.tail, by rw [add_one_add]; exact h.2⟩

theorem BufferAccessible.congr {s t : State} (e : t.segments = s.segments) {k : AccessKind} {a : Word} {n : Nat}
    (h : BufferAccessible s k a n) : BufferAccessible t k a n := fun j hj =>
  (accessFault_congr e k _ 1).trans (h j hj)

theorem BufferStopsAt.congr {s t : State} (e : t.segments = s.segments) {k : AccessKind} {a : Word} {j : Nat}
    {c : Condition} (h : BufferStopsAt s k a j c) : BufferStopsAt t k a j c :=
  ⟨h.1.congr e, (accessFault_congr e k _ 1).trans h.2⟩

/-! ### One byte -/

theorem load_one (m : Memory) (a : Nat) : m.load a 1 = m.read a := by
  apply eq_of_bytes (n := 1)
  intro j hj
  rw [Memory.load_byte m a 1 j hj, show j = 0 by omega]
  apply BitVec.eq_of_getLsbD_eq
  intro i hi
  simp [hi]

theorem store_one (m : Memory) (a : Nat) (b : Byte) : m.store a 1 b = m.write a b := by
  have : bytesOf 1 b = [b] := by
    simp only [bytesOf, List.range_one, List.map_cons, List.map_nil, List.cons.injEq, and_true]
    apply BitVec.eq_of_getLsbD_eq
    intro i hi
    simp [hi]
  unfold Memory.store
  rw [this]
  rfl

theorem memRead_one {s : State} {a : Word} (h : Accessible s .read a 1) : s.memRead a 1 = .ok (s.byteAt a.toNat) := by
  rw [memRead_ok h]; exact congrArg _ (load_one _ _)

theorem memWrite_one {s : State} {a : Word} (b : Byte) (h : Accessible s .write a 1) :
    s.memWrite a 1 b = .ok { s with mem := s.mem.write a.toNat b } := by
  rw [memWrite_ok (n := 1) b h]; exact congrArg (fun m => Except.ok { s with mem := m }) (store_one _ _ _)

/-! ### Reading -/

/-- The bytes at `a` and the addresses after it, modulo 2^64. -/
def bytesAt (s : State) (a : Word) : Nat → List Byte
  | 0 => []
  | n + 1 => s.byteAt a.toNat :: bytesAt s (a + 1#64) n

@[simp] theorem length_bytesAt (s : State) (n : Nat) : ∀ a, (bytesAt s a n).length = n := by
  induction n with
  | zero => exact fun _ => rfl
  | succ n ih => intro a; simp [bytesAt, ih]

theorem holdsBytes_bytesAt (s : State) (n : Nat) : ∀ a, HoldsBytes s a (bytesAt s a n) := by
  induction n with
  | zero => intro a j h; exact absurd h (by simp [bytesAt])
  | succ n ih =>
    intro a j h
    cases j with
    | zero => simp [bytesAt]
    | succ j =>
      have := ih (a + 1#64) j (by simpa [bytesAt] using h)
      rw [add_one_add] at this
      exact this

/-- A buffer read whose accesses pass their checks gives the bytes of memory. -/
theorem readBuffer_ok (s : State) (n : Nat) : ∀ a, BufferAccessible s .read a n →
    s.readBuffer a n = .ok (bytesAt s a n) := by
  induction n with
  | zero => exact fun _ _ => rfl
  | succ n ih =>
    intro a h
    unfold State.readBuffer
    rw [memRead_one h.head]
    simp only [ih _ h.tail]
    rfl

/-- A buffer read stops at the first access that fails its checks. -/
theorem readBuffer_error (s : State) (c : Condition) (n : Nat) : ∀ a j, j < n → BufferStopsAt s .read a j c →
    s.readBuffer a n = .error c := by
  induction n with
  | zero => intro _ j h; omega
  | succ n ih =>
    intro a j h hs
    unfold State.readBuffer
    cases j with
    | zero => rw [memRead_error (by simpa using hs.2)]
    | succ j =>
      rw [memRead_one hs.1.head]
      simp only [ih _ j (by omega) hs.tail]

/-- A buffer read raises conditions of reads only. -/
theorem readBuffer_condition (s : State) (c : Condition) (n : Nat) : ∀ a, s.readBuffer a n = .error c →
    ∃ kind b, c = .segFault kind b .read := by
  induction n with
  | zero => intro a h; cases h
  | succ n ih =>
    intro a h
    unfold State.readBuffer at h
    cases hf : s.accessFault .read a 1 with
    | some d =>
      rw [memRead_error hf] at h
      cases h
      obtain ⟨kind, rfl⟩ := accessFault_eq hf
      exact ⟨kind, a, rfl⟩
    | none =>
      rw [memRead_one hf] at h
      simp only at h
      split at h
      · next hr => cases h; exact ih _ hr
      · cases h

/-! ### Writing -/

/-- Memory after bytes are written at `a` and the addresses after it, modulo 2^64. -/
def writeAll (m : Memory) (a : Word) : List Byte → Memory
  | [] => m
  | b :: bs => writeAll (m.write a.toNat b) (a + 1#64) bs

theorem wf_writeAll (bs : List Byte) : ∀ (m : Memory) (a : Word), Memory.wf m → Memory.wf (writeAll m a bs) := by
  induction bs with
  | nil => exact fun _ _ h => h
  | cons b bs ih => exact fun m a h => ih _ _ (Memory.wf_write m h _ b)

theorem read_writeAll_outside (bs : List Byte) : ∀ (m : Memory) (a : Word) (x : Nat),
    (∀ j, j < bs.length → x ≠ (a + BitVec.ofNat 64 j).toNat) → (writeAll m a bs).read x = m.read x := by
  induction bs with
  | nil => exact fun _ _ _ _ => rfl
  | cons b bs ih =>
    intro m a x h
    show (writeAll (m.write a.toNat b) (a + 1#64) bs).read x = _
    rw [ih _ _ x fun j hj => by rw [add_one_add]; exact h (j + 1) (by simpa using hj)]
    exact Memory.read_write_other m _ b x (by simpa using h 0 (by simp))

theorem read_writeAll_inside (bs : List Byte) : ∀ (m : Memory) (a : Word) (j : Nat), Memory.wf m →
    bs.length ≤ 2 ^ 64 → (h : j < bs.length) → (writeAll m a bs).read (a + BitVec.ofNat 64 j).toNat = bs[j] := by
  induction bs with
  | nil => intro _ _ _ _ _ h; exact absurd h (by simp)
  | cons b bs ih =>
    intro m a j hm hl h
    simp only [List.length_cons] at hl h
    show (writeAll (m.write a.toNat b) (a + 1#64) bs).read _ = _
    cases j with
    | zero =>
      rw [read_writeAll_outside bs _ _ _ fun k hk => by
        rw [add_one_add]; exact add_ofNat_ne a 0 (k + 1) (by omega) (by omega) (by omega)]
      simpa using Memory.read_write_same m hm a.toNat b
    | succ j =>
      rw [← add_one_add a j]
      exact ih _ _ j (Memory.wf_write m hm _ b) (by omega) (by omega)

/-- A buffer write whose accesses pass their checks writes all the bytes. -/
theorem writeBuffer_ok (bs : List Byte) : ∀ (s : State) (a : Word), BufferAccessible s .write a bs.length →
    s.writeBuffer a bs = .ok { s with mem := writeAll s.mem a bs } := by
  induction bs with
  | nil => exact fun _ _ _ => rfl
  | cons b bs ih =>
    intro s a h
    unfold State.writeBuffer
    rw [memWrite_one b h.head]
    exact ih _ _ (h.tail.congr rfl)

/-- A buffer write stops at the first access that fails its checks; the bytes before it stay written. -/
theorem writeBuffer_error (c : Condition) (bs : List Byte) : ∀ (s : State) (a : Word) (j : Nat), j < bs.length →
    BufferStopsAt s .write a j c →
    s.writeBuffer a bs = .error (({ s with mem := writeAll s.mem a (bs.take j) } : State).raise c) := by
  induction bs with
  | nil => intro _ _ _ h; exact absurd h (by simp)
  | cons b bs ih =>
    intro s a j h hs
    unfold State.writeBuffer
    cases j with
    | zero => rw [memWrite_error (n := 1) b (by simpa using hs.2)]; rfl
    | succ j =>
      rw [memWrite_one b hs.1.head]
      exact ih _ _ j (by simpa using h) (hs.tail.congr rfl)

/-- Every buffer write is of one of these two kinds. -/
theorem writeBuffer_cases (bs : List Byte) : ∀ (s : State) (a : Word),
    BufferAccessible s .write a bs.length ∨ ∃ j c, j < bs.length ∧ BufferStopsAt s .write a j c := by
  intro s a
  by_cases h : BufferAccessible s .write a bs.length
  · exact .inl h
  · right
    unfold BufferAccessible at h
    push Not at h
    obtain ⟨j, hj, hn⟩ := h
    induction j using Nat.strong_induction_on with
    | _ j ih =>
      by_cases hb : BufferAccessible s .write a j
      · obtain ⟨c, hc⟩ := Option.ne_none_iff_exists'.mp hn
        exact ⟨j, c, hj, hb, hc⟩
      · unfold BufferAccessible at hb
        push Not at hb
        obtain ⟨i, hi, hn'⟩ := hb
        exact ih i hi (by omega) hn'

/-! ### Strings -/

theorem InSegmentOf.head {s : State} {start a : Word} {n : Nat} (h : InSegmentOf s start a (n + 1)) :
    s.segments.lookup a.toNat = s.segments.lookup start.toNat := by simpa using h 0 (by omega)

theorem InSegmentOf.tail {s : State} {start a : Word} {n : Nat} (h : InSegmentOf s start a (n + 1)) :
    InSegmentOf s start (a + 1#64) n := fun j hj => by rw [add_one_add]; exact h (j + 1) (by omega)

/-- A byte of a scan that may be read and lies in the string's segment. -/
theorem scanByte_ok {s : State} {start a : Word} (h : Accessible s .read a 1)
    (hs : s.segments.lookup a.toNat = s.segments.lookup start.toNat) : s.scanByte start a = .ok (s.byteAt a.toNat) := by
  unfold State.scanByte
  rw [memRead_one h]
  exact if_pos hs

/-- Every other byte of a scan, and nothing else, stops it. -/
theorem scanByte_error {s : State} {start a : Word} {c : Condition} :
    s.scanByte start a = .error c ↔ ScanByteStops s start a c := by
  unfold State.scanByte ScanByteStops Accessible
  cases hf : s.accessFault .read a 1 with
  | some d => simp [memRead_error hf]
  | none =>
    rw [memRead_one hf]
    by_cases hs : s.segments.lookup a.toNat = s.segments.lookup start.toNat
    · simp [hs]
    · simp [hs, eq_comm]

/-- A scan raises conditions of reads only. -/
theorem ScanByteStops.condition {s : State} {start a : Word} {c : Condition} (h : ScanByteStops s start a c) :
    ∃ kind b, c = .segFault kind b .read := by
  rcases h with h | ⟨-, -, rfl⟩
  · obtain ⟨kind, rfl⟩ := accessFault_eq h
    exact ⟨kind, a, rfl⟩
  · exact ⟨_, a, rfl⟩

/-- The scan of a string whose bytes are readable and in one segment. -/
theorem scanFrom_found (s : State) (start : Word) (bs : List Byte) : ∀ (a : Word) (fuel : Nat), bs.length < fuel →
    HoldsBytes s a (bs ++ [0#8]) → BufferAccessible s .read a (bs.length + 1) →
    InSegmentOf s start a (bs.length + 1) → 0#8 ∉ bs → s.scanFrom start a fuel = .found bs := by
  induction bs with
  | nil =>
    intro a fuel hf hb ha hg _
    obtain ⟨fuel, rfl⟩ : ∃ n, fuel = n + 1 := ⟨fuel - 1, by simp at hf; omega⟩
    have h0 := hb 0 (by simp)
    simp only [add_ofNat_zero] at h0
    unfold State.scanFrom
    rw [scanByte_ok ha.head hg.head, h0]
    rfl
  | cons b bs ih =>
    intro a fuel hf hb ha hg hz
    obtain ⟨fuel, rfl⟩ : ∃ n, fuel = n + 1 := ⟨fuel - 1, by simp at hf; omega⟩
    have h0 := hb 0 (by simp)
    simp only [add_ofNat_zero, List.cons_append, List.getElem_cons_zero] at h0
    simp only [List.mem_cons, not_or] at hz
    unfold State.scanFrom
    rw [scanByte_ok ha.head hg.head, h0]
    simp only [if_neg (Ne.symm hz.1)]
    rw [ih (a + 1#64) fuel (by simpa using hf) (fun j hj => ?_) ha.tail hg.tail hz.2]
    · rfl
    · have := hb (j + 1) (by simpa using hj)
      rw [add_one_add]
      simpa using this

theorem scanString_found {s : State} {a : Word} {bs : List Byte} (h : HoldsString s a bs) :
    s.scanString a = .found bs := scanFrom_found s a bs a _ h.1 h.2.1 h.2.2.1 h.2.2.2.1 h.2.2.2.2

/-- The scan that a byte stops first. -/
theorem scanFrom_stopped (s : State) (start : Word) (c : Condition) (j : Nat) : ∀ (a : Word) (fuel : Nat), j < fuel →
    BufferAccessible s .read a j → InSegmentOf s start a j →
    (∀ k, k < j → s.byteAt (a + BitVec.ofNat 64 k).toNat ≠ 0#8) →
    ScanByteStops s start (a + BitVec.ofNat 64 j) c → s.scanFrom start a fuel = .stopped c := by
  induction j with
  | zero =>
    intro a fuel hf _ _ _ hs
    obtain ⟨fuel, rfl⟩ : ∃ n, fuel = n + 1 := ⟨fuel - 1, by omega⟩
    unfold State.scanFrom
    rw [scanByte_error.mpr (by simpa using hs)]
  | succ j ih =>
    intro a fuel hf ha hg hz hs
    obtain ⟨fuel, rfl⟩ : ∃ n, fuel = n + 1 := ⟨fuel - 1, by omega⟩
    unfold State.scanFrom
    rw [scanByte_ok ha.head hg.head]
    have h0 := hz 0 (by omega)
    rw [add_ofNat_zero] at h0
    simp only [if_neg h0]
    rw [ih (a + 1#64) fuel (by omega) ha.tail hg.tail
      (fun k hk => by rw [add_one_add]; exact hz (k + 1) (by omega)) (by rw [add_one_add]; exact hs)]
    rfl

theorem scanString_stopped {s : State} {a : Word} {c : Condition} (h : ScanStops s a c) :
    s.scanString a = .stopped c := by
  obtain ⟨j, hj, ha, hg, hz, hs⟩ := h
  exact scanFrom_stopped s a c j a _ hj ha hg hz hs

/-- The scan that meets neither. -/
theorem scanFrom_endless (s : State) (start : Word) (h : ∀ a, Accessible s .read a 1 ∧
    s.segments.lookup a.toNat = s.segments.lookup start.toNat ∧ s.byteAt a.toNat ≠ 0#8) (fuel : Nat) :
    ∀ a, s.scanFrom start a fuel = .endless := by
  induction fuel with
  | zero => exact fun _ => rfl
  | succ fuel ih =>
    intro a
    unfold State.scanFrom
    rw [scanByte_ok (h a).1 (h a).2.1]
    simp only [if_neg (h a).2.2, ih]
    rfl

/-- A scan raises conditions of reads only. -/
theorem scanFrom_condition (s : State) (start : Word) (c : Condition) (fuel : Nat) :
    ∀ a, s.scanFrom start a fuel = .stopped c → ∃ kind b, c = .segFault kind b .read := by
  induction fuel with
  | zero => intro a h; cases h
  | succ fuel ih =>
    intro a h
    unfold State.scanFrom at h
    cases hb : s.scanByte start a with
    | error d =>
      rw [hb] at h
      cases h
      exact (scanByte_error.mp hb).condition
    | ok b =>
      rw [hb] at h
      simp only at h
      split at h
      · cases h
      · cases hr : s.scanFrom start (a + 1#64) fuel with
        | found bs => rw [hr] at h; cases h
        | stopped d => rw [hr] at h; cases h; exact ih _ hr
        | endless => rw [hr] at h; cases h

/-- What is done with a string: the use of it, a condition of a read, or the fault of an endless one. -/
theorem withString_cases (s t : State) (a : Word) (use : List Byte → State) (h : withString s a use = .next t) :
    (∃ bs, s.scanString a = .found bs ∧ t = use bs) ∨
    ∃ kind b, t = s.raise (.segFault kind b .read) := by
  unfold withString at h
  cases hs : s.scanString a with
  | found bs => rw [hs] at h; cases h; exact .inl ⟨bs, rfl, rfl⟩
  | stopped c =>
    rw [hs] at h
    cases h
    obtain ⟨kind, b, rfl⟩ := scanFrom_condition s a c _ a hs
    exact .inr ⟨kind, b, rfl⟩
  | endless => rw [hs] at h; cases h

end Sys2Proof.Machine
end

