-- ==== Sys2Proof/Laws/Divide.lean ====
section
/-! SUPPORT. What a division comes to, said once for each of its forms (40/R143, 44/R272). -/

namespace Sys2Proof.Machine

theorem divideSigned_faults {w : Nat} {a b : BitVec w} (h : signedDivFaults a b = true) : divideSigned a b = none := by
  unfold divideSigned; rw [if_pos h]; rfl

theorem divideSigned_result {w : Nat} {a b : BitVec w} (h : signedDivFaults a b = false) :
    divideSigned a b = some (quotientSigned a b, remainderSigned a b) := by
  unfold divideSigned; rw [if_neg (by simp [h])]

theorem divideUnsigned_faults {w : Nat} (a : BitVec w) : divideUnsigned a 0#w = none := by
  unfold divideUnsigned; rw [if_pos (by simp)]; rfl

theorem divideUnsigned_result {w : Nat} (a : BitVec w) {b : BitVec w} (h : b ≠ 0#w) :
    divideUnsigned a b = some (quotientUnsigned a b, remainderUnsigned a b) := by
  unfold divideUnsigned; rw [if_neg (by simpa using h)]

/-- A signed division that has a result divides by another value than 0, and not the most negative value by -1. -/
theorem divideSigned_isNone {w : Nat} (a b : BitVec w) : (divideSigned a b).isNone = signedDivFaults a b := by
  cases h : signedDivFaults a b with
  | true => rw [divideSigned_faults h]; rfl
  | false => rw [divideSigned_result h]; rfl

/-- One lane whose division has no result takes the result from all (44/R272). -/
theorem quotientLanes_faults {w k : Nat} {a b : VWord} (hk : k < laneCount w)
    (h : signedDivFaults (lane w k a) (lane w k b) = true) : quotientLanes w a b = none := by
  unfold quotientLanes anyLane
  rw [if_pos]
  exact List.any_eq_true.mpr ⟨k, List.mem_range.mpr hk, by rw [divideSigned_isNone]; exact h⟩

/-- The lanes' quotients where every lane has one. -/
theorem quotientLanes_result {w : Nat} {a b : VWord}
    (h : ∀ k, k < laneCount w → signedDivFaults (lane w k a) (lane w k b) = false) :
    ∃ v, quotientLanes w a b = some v ∧ ∀ k, k < laneCount w → lane w k v = quotientSigned (lane w k a) (lane w k b) := by
  refine ⟨_, if_neg ?_, fun k hk => ?_⟩
  · unfold anyLane
    rw [List.any_eq_true]
    rintro ⟨k, hk, hn⟩
    rw [divideSigned_isNone, h k (List.mem_range.mp hk)] at hn
    cases hn
  · rw [lane_zipLanes _ _ _ _ hk, divideSigned_result (h k hk)]
    rfl

end Sys2Proof.Machine
end

