-- ==== Sys2Proof/Laws/Encoding.lean ====
section
/-! SUPPORT. The fields of a word built field by field, and the words as the spec's formulas write them
(30/R101, R112 to R115). -/

namespace Sys2Proof

open Machine

/-! ### Words as numbers -/

/-- A concatenation as a number. -/
theorem toNat_append_add {m n : Nat} (a : BitVec m) (b : BitVec n) : (a ++ b).toNat = a.toNat * 2 ^ n + b.toNat := by
  rw [BitVec.toNat_append, ← Nat.shiftLeft_add_eq_or_of_lt b.isLt, Nat.shiftLeft_eq]

/-- The words of the formats as concatenations of their fields (30/R101): the fields fill the word. -/
theorem rWord_eq_append (op : BitVec 7) (rs rt rd : RegNum) (f : BitVec 10) :
    rWord op rs rt rd f = op ++ rs ++ rt ++ rd ++ f := by
  apply BitVec.eq_of_getLsbD_eq
  intro k hk
  simp only [rWord, placed, config, fieldLayout, BitVec.getLsbD_append, BitVec.getLsbD_or, BitVec.getLsbD_shiftLeft,
    BitVec.getLsbD_setWidth]
  interval_cases k <;> simp

theorem iWord_eq_append (op : BitVec 7) (rs rt : RegNum) (imm : BitVec 15) :
    iWord op rs rt imm = op ++ rs ++ rt ++ imm := by
  apply BitVec.eq_of_getLsbD_eq
  intro k hk
  simp only [iWord, placed, config, fieldLayout, BitVec.getLsbD_append, BitVec.getLsbD_or, BitVec.getLsbD_shiftLeft,
    BitVec.getLsbD_setWidth]
  interval_cases k <;> simp

theorem jWord_eq_append (op : BitVec 7) (addr : BitVec 25) : jWord op addr = op ++ addr := by
  apply BitVec.eq_of_getLsbD_eq
  intro k hk
  simp only [jWord, placed, config, fieldLayout, BitVec.getLsbD_append, BitVec.getLsbD_or, BitVec.getLsbD_shiftLeft,
    BitVec.getLsbD_setWidth]
  interval_cases k <;> simp

theorem eiWord_eq_append (op : BitVec 7) (rd : RegNum) (f : BitVec 4) (imm : BitVec 16) :
    eiWord op rd f imm = op ++ rd ++ f ++ imm := by
  apply BitVec.eq_of_getLsbD_eq
  intro k hk
  simp only [eiWord, placed, config, fieldLayout, BitVec.getLsbD_append, BitVec.getLsbD_or, BitVec.getLsbD_shiftLeft,
    BitVec.getLsbD_setWidth]
  interval_cases k <;> simp

theorem toNat_rWord (op : BitVec 7) (rs rt rd : RegNum) (f : BitVec 10) :
    (rWord op rs rt rd f).toNat =
      op.toNat * 2 ^ 25 + rs.toNat * 2 ^ 20 + rt.toNat * 2 ^ 15 + rd.toNat * 2 ^ 10 + f.toNat := by
  rw [rWord_eq_append]; simp only [toNat_append_add]; omega

theorem toNat_iWord (op : BitVec 7) (rs rt : RegNum) (imm : BitVec 15) :
    (iWord op rs rt imm).toNat = op.toNat * 2 ^ 25 + rs.toNat * 2 ^ 20 + rt.toNat * 2 ^ 15 + imm.toNat := by
  rw [iWord_eq_append]; simp only [toNat_append_add]; omega

theorem toNat_jWord (op : BitVec 7) (addr : BitVec 25) : (jWord op addr).toNat = op.toNat * 2 ^ 25 + addr.toNat := by
  rw [jWord_eq_append]; simp only [toNat_append_add]

theorem toNat_eiWord (op : BitVec 7) (rd : RegNum) (f : BitVec 4) (imm : BitVec 16) :
    (eiWord op rd f imm).toNat = op.toNat * 2 ^ 25 + rd.toNat * 2 ^ 20 + f.toNat * 2 ^ 16 + imm.toNat := by
  rw [eiWord_eq_append]; simp only [toNat_append_add]; omega

/-- A field as a number. -/
theorem toNat_field (w : InstrWord) (lo n : Nat) : (w.extractLsb' lo n).toNat = w.toNat / 2 ^ lo % 2 ^ n := by
  rw [BitVec.extractLsb'_toNat, Nat.shiftRight_eq_div_pow]

/-- The fields at the places of `LAYOUT` (30/R101). -/
theorem toNat_opcodeOf (w : InstrWord) : (opcodeOf w).toNat = w.toNat / 2 ^ 25 % 2 ^ 7 := toNat_field w 25 7
theorem toNat_rsOf (w : InstrWord) : (rsOf w).toNat = w.toNat / 2 ^ 20 % 2 ^ 5 := toNat_field w 20 5
theorem toNat_rtOf (w : InstrWord) : (rtOf w).toNat = w.toNat / 2 ^ 15 % 2 ^ 5 := toNat_field w 15 5
theorem toNat_rdOf (w : InstrWord) : (rdOf w).toNat = w.toNat / 2 ^ 10 % 2 ^ 5 := toNat_field w 10 5
theorem toNat_funcOf (w : InstrWord) : (funcOf w).toNat = w.toNat / 2 ^ 0 % 2 ^ 10 := toNat_field w 0 10
theorem toNat_iRsOf (w : InstrWord) : (iRsOf w).toNat = w.toNat / 2 ^ 20 % 2 ^ 5 := toNat_field w 20 5
theorem toNat_iRtOf (w : InstrWord) : (iRtOf w).toNat = w.toNat / 2 ^ 15 % 2 ^ 5 := toNat_field w 15 5
theorem toNat_immOf (w : InstrWord) : (immOf w).toNat = w.toNat / 2 ^ 0 % 2 ^ 15 := toNat_field w 0 15
theorem toNat_addrOf (w : InstrWord) : (addrOf w).toNat = w.toNat / 2 ^ 0 % 2 ^ 25 := toNat_field w 0 25
theorem toNat_eiRdOf (w : InstrWord) : (eiRdOf w).toNat = w.toNat / 2 ^ 20 % 2 ^ 5 := toNat_field w 20 5
theorem toNat_eiFuncOf (w : InstrWord) : (eiFuncOf w).toNat = w.toNat / 2 ^ 16 % 2 ^ 4 := toNat_field w 16 4
theorem toNat_eiImmOf (w : InstrWord) : (eiImmOf w).toNat = w.toNat / 2 ^ 0 % 2 ^ 16 := toNat_field w 0 16

/-! ### Fields of the four formats -/

section R
variable (op : BitVec 7) (rs rt rd : RegNum) (f : BitVec 10)

@[simp] theorem opcodeOf_rWord : opcodeOf (rWord op rs rt rd f) = op := by
  apply BitVec.eq_of_toNat_eq; rw [toNat_opcodeOf, toNat_rWord]; omega
@[simp] theorem rsOf_rWord : rsOf (rWord op rs rt rd f) = rs := by
  apply BitVec.eq_of_toNat_eq; rw [toNat_rsOf, toNat_rWord]; omega
@[simp] theorem rtOf_rWord : rtOf (rWord op rs rt rd f) = rt := by
  apply BitVec.eq_of_toNat_eq; rw [toNat_rtOf, toNat_rWord]; omega
@[simp] theorem rdOf_rWord : rdOf (rWord op rs rt rd f) = rd := by
  apply BitVec.eq_of_toNat_eq; rw [toNat_rdOf, toNat_rWord]; omega
@[simp] theorem funcOf_rWord : funcOf (rWord op rs rt rd f) = f := by
  apply BitVec.eq_of_toNat_eq; rw [toNat_funcOf, toNat_rWord]; omega

end R

section I
variable (op : BitVec 7) (rs rt : RegNum) (imm : BitVec 15)

@[simp] theorem opcodeOf_iWord : opcodeOf (iWord op rs rt imm) = op := by
  apply BitVec.eq_of_toNat_eq; rw [toNat_opcodeOf, toNat_iWord]; omega
@[simp] theorem iRsOf_iWord : iRsOf (iWord op rs rt imm) = rs := by
  apply BitVec.eq_of_toNat_eq; rw [toNat_iRsOf, toNat_iWord]; omega
@[simp] theorem iRtOf_iWord : iRtOf (iWord op rs rt imm) = rt := by
  apply BitVec.eq_of_toNat_eq; rw [toNat_iRtOf, toNat_iWord]; omega
@[simp] theorem immOf_iWord : immOf (iWord op rs rt imm) = imm := by
  apply BitVec.eq_of_toNat_eq; rw [toNat_immOf, toNat_iWord]; omega

end I

section J
variable (op : BitVec 7) (addr : BitVec 25)

@[simp] theorem opcodeOf_jWord : opcodeOf (jWord op addr) = op := by
  apply BitVec.eq_of_toNat_eq; rw [toNat_opcodeOf, toNat_jWord]; omega
@[simp] theorem addrOf_jWord : addrOf (jWord op addr) = addr := by
  apply BitVec.eq_of_toNat_eq; rw [toNat_addrOf, toNat_jWord]; omega

end J

section EI
variable (op : BitVec 7) (rd : RegNum) (f : BitVec 4) (imm : BitVec 16)

@[simp] theorem opcodeOf_eiWord : opcodeOf (eiWord op rd f imm) = op := by
  apply BitVec.eq_of_toNat_eq; rw [toNat_opcodeOf, toNat_eiWord]; omega
@[simp] theorem eiRdOf_eiWord : eiRdOf (eiWord op rd f imm) = rd := by
  apply BitVec.eq_of_toNat_eq; rw [toNat_eiRdOf, toNat_eiWord]; omega
@[simp] theorem eiFuncOf_eiWord : eiFuncOf (eiWord op rd f imm) = f := by
  apply BitVec.eq_of_toNat_eq; rw [toNat_eiFuncOf, toNat_eiWord]; omega
@[simp] theorem eiImmOf_eiWord : eiImmOf (eiWord op rd f imm) = imm := by
  apply BitVec.eq_of_toNat_eq; rw [toNat_eiImmOf, toNat_eiWord]; omega

end EI

/-! ### A word is its fields -/

theorem rWord_fields (w : InstrWord) : rWord (opcodeOf w) (rsOf w) (rtOf w) (rdOf w) (funcOf w) = w := by
  apply BitVec.eq_of_toNat_eq
  rw [toNat_rWord]; simp only [toNat_opcodeOf, toNat_rsOf, toNat_rtOf, toNat_rdOf, toNat_funcOf]; omega

theorem iWord_fields (w : InstrWord) : iWord (opcodeOf w) (iRsOf w) (iRtOf w) (immOf w) = w := by
  apply BitVec.eq_of_toNat_eq
  rw [toNat_iWord]; simp only [toNat_opcodeOf, toNat_iRsOf, toNat_iRtOf, toNat_immOf]; omega

theorem jWord_fields (w : InstrWord) : jWord (opcodeOf w) (addrOf w) = w := by
  apply BitVec.eq_of_toNat_eq
  rw [toNat_jWord]; simp only [toNat_opcodeOf, toNat_addrOf]; omega

theorem eiWord_fields (w : InstrWord) : eiWord (opcodeOf w) (eiRdOf w) (eiFuncOf w) (eiImmOf w) = w := by
  apply BitVec.eq_of_toNat_eq
  rw [toNat_eiWord]; simp only [toNat_opcodeOf, toNat_eiRdOf, toNat_eiFuncOf, toNat_eiImmOf]; omega

/-! ### The instruction table (30/R102, R112 to R115) -/

theorem mem_all (m : Mnemonic) : m ∈ Mnemonic.all := by cases m <;> decide

/-- The opcode of a row selects the row's format (30/R102). -/
theorem formatOf_itable (m : Mnemonic) : formatOf (config.itable m).opcode = some (config.itable m).format := by
  cases m <;> rfl

/-- The opcode and func of a row select the row: no two rows share them. -/
theorem mnemonicOf_itable (m : Mnemonic) : mnemonicOf (config.itable m).opcode (config.itable m).func = some m := by
  cases m <;> rfl

/-- A selected row has the opcode and func that select it. -/
theorem mnemonicOf_eq_some {op : BitVec 7} {func : BitVec 10} {m : Mnemonic} (h : mnemonicOf op func = some m) :
    (config.itable m).opcode = op ∧ (config.itable m).func = func := by
  have := List.find?_some h
  simpa using this

/-- An opcode that selects a format is the opcode of a row of the format. -/
theorem formatOf_eq_some {op : BitVec 7} {f : Format} (h : formatOf op = some f) :
    ∃ m, (config.itable m).opcode = op ∧ (config.itable m).format = f := by
  obtain ⟨m, hm, hf⟩ := Option.map_eq_some_iff.mp h
  exact ⟨m, by simpa using List.find?_some hm, hf⟩

/-- A word decodes to an instruction exactly where its opcode and func are those of the instruction's row; the
operands are the fields of the word (30/R100 steps 3 to 6). -/
theorem decode_eq_ok {w : InstrWord} {i : Instr} (h : decode w = .ok i) :
    ∃ m : Mnemonic, i = m.read w ∧ (config.itable m).opcode = opcodeOf w ∧
      (config.itable m).func = (config.itable m).format.funcIn w := by
  unfold decode at h
  cases hf : formatOf (opcodeOf w) with
  | none => rw [hf] at h; cases h
  | some f =>
    simp only [hf] at h
    cases hm : mnemonicOf (opcodeOf w) (f.funcIn w) with
    | none => rw [hm] at h; cases h
    | some m =>
      rw [hm] at h
      cases h
      obtain ⟨ho, hfunc⟩ := mnemonicOf_eq_some hm
      have := formatOf_itable m
      rw [ho, hf, Option.some.injEq] at this
      exact ⟨m, rfl, ho, this ▸ hfunc⟩

theorem decode_of_row {w : InstrWord} (m : Mnemonic) (ho : opcodeOf w = (config.itable m).opcode)
    (hf : (config.itable m).format.funcIn w = (config.itable m).func) : decode w = .ok (m.read w) := by
  unfold decode
  rw [ho, formatOf_itable]
  simp only [hf, mnemonicOf_itable]

/-- The word of what a word's fields are read as: the row's opcode and func with those fields. -/
theorem encode_read (m : Mnemonic) (w : InstrWord) : encode (m.read w) =
    match (config.itable m).format with
    | .R => rWord (config.itable m).opcode (rsOf w) (rtOf w) (rdOf w) (config.itable m).func
    | .I => iWord (config.itable m).opcode (iRsOf w) (iRtOf w) (immOf w)
    | .J => jWord (config.itable m).opcode (addrOf w)
    | .EI => eiWord (config.itable m).opcode (eiRdOf w) ((config.itable m).func.setWidth 4) (eiImmOf w) := by
  cases m <;> rfl

/-! ### The spec's formulas -/

/-- Or-ing in a field whose place is still free adds it. -/
theorem or_field {n : Nat} (a : InstrWord) (b : BitVec n) (k m : Nat) (ha : a.toNat = 2 ^ (k + n) * m)
    (hk : k + n ≤ 32) : (a ||| (b.setWidth 32 <<< k)).toNat = a.toNat + b.toNat * 2 ^ k := by
  have hb := b.isLt
  have hlt : b.toNat * 2 ^ k < 2 ^ (k + n) := by
    rw [Nat.pow_add, Nat.mul_comm]; exact Nat.mul_lt_mul_of_pos_left hb (Nat.two_pow_pos k)
  have h32 : 2 ^ (k + n) ≤ 2 ^ 32 := Nat.pow_le_pow_right (by omega) hk
  have hn : b.toNat < 2 ^ 32 := Nat.lt_of_lt_of_le hb (Nat.pow_le_pow_right (by omega) (by omega))
  rw [BitVec.toNat_or, BitVec.toNat_shiftLeft, BitVec.toNat_setWidth, Nat.mod_eq_of_lt hn, Nat.shiftLeft_eq,
    Nat.mod_eq_of_lt (Nat.lt_of_lt_of_le hlt h32), ha, Nat.two_pow_add_eq_or_of_lt hlt]

theorem rWord_eq_wordR (base : InstrWord) (op : BitVec 7) (rs rt rd : RegNum) (f : BitVec 10) (func : InstrWord)
    (hb : base.toNat = op.toNat * 2 ^ 25) (hf : func = f.setWidth 32) :
    rWord op rs rt rd f = wordR base rs rt rd func := by
  apply BitVec.eq_of_toNat_eq
  have h1 := or_field base rs 20 op.toNat (by omega) (by omega)
  have h2 := or_field (base ||| rs.setWidth 32 <<< 20) rt 15 (op.toNat * 2 ^ 5 + rs.toNat) (by omega) (by omega)
  have h3 := or_field (base ||| rs.setWidth 32 <<< 20 ||| rt.setWidth 32 <<< 15) rd 10
    (op.toNat * 2 ^ 10 + rs.toNat * 2 ^ 5 + rt.toNat) (by omega) (by omega)
  have h4 := or_field (base ||| rs.setWidth 32 <<< 20 ||| rt.setWidth 32 <<< 15 ||| rd.setWidth 32 <<< 10) f 0
    (op.toNat * 2 ^ 15 + rs.toNat * 2 ^ 10 + rt.toNat * 2 ^ 5 + rd.toNat) (by omega) (by omega)
  rw [BitVec.shiftLeft_zero] at h4
  rw [toNat_rWord, wordR, hf, h4]; omega

theorem iWord_eq_wordI (op : BitVec 7) (rs rt : RegNum) (imm : BitVec 15) (opcode : InstrWord)
    (ho : opcode = op.setWidth 32) : iWord op rs rt imm = wordI opcode rs rt imm := by
  apply BitVec.eq_of_toNat_eq
  have h0 : (opcode <<< 25).toNat = op.toNat * 2 ^ 25 := by
    have := op.isLt
    subst ho; rw [BitVec.toNat_shiftLeft, BitVec.toNat_setWidth, Nat.shiftLeft_eq]; omega
  have h1 := or_field (opcode <<< 25) rs 20 op.toNat (by omega) (by omega)
  have h2 := or_field (opcode <<< 25 ||| rs.setWidth 32 <<< 20) rt 15 (op.toNat * 2 ^ 5 + rs.toNat) (by omega) (by omega)
  have h3 := or_field (opcode <<< 25 ||| rs.setWidth 32 <<< 20 ||| rt.setWidth 32 <<< 15) imm 0
    (op.toNat * 2 ^ 10 + rs.toNat * 2 ^ 5 + rt.toNat) (by omega) (by omega)
  rw [BitVec.shiftLeft_zero] at h3
  rw [toNat_iWord, wordI, h3]; omega

theorem jWord_eq_wordJ (base : InstrWord) (op : BitVec 7) (addr : BitVec 25) (hb : base.toNat = op.toNat * 2 ^ 25) :
    jWord op addr = wordJ base addr := by
  apply BitVec.eq_of_toNat_eq
  have h := or_field base addr 0 op.toNat (by omega) (by omega)
  rw [BitVec.shiftLeft_zero] at h
  rw [toNat_jWord, wordJ, h]; omega

theorem eiWord_eq_wordEI (rd : RegNum) (f : BitVec 4) (k : InstrWord) (imm : BitVec 16) (hk : k = f.setWidth 32) :
    eiWord 0x40#7 rd f imm = wordEI rd k imm := by
  apply BitVec.eq_of_toNat_eq
  have h1 := or_field 0x80000000#32 rd 20 0x40 (by decide) (by omega)
  have e : (0x80000000#32).toNat = 0x80000000 := rfl
  have h2 := or_field (0x80000000#32 ||| rd.setWidth 32 <<< 20) f 16 (0x40 * 2 ^ 5 + rd.toNat) (by omega) (by omega)
  have h3 := or_field (0x80000000#32 ||| rd.setWidth 32 <<< 20 ||| f.setWidth 32 <<< 16) imm 0
    (0x40 * 2 ^ 9 + rd.toNat * 2 ^ 4 + f.toNat) (by omega) (by omega)
  rw [BitVec.shiftLeft_zero] at h3
  rw [toNat_eiWord, wordEI, hk, h3]
  have : (0x40#7).toNat = 0x40 := rfl
  omega

end Sys2Proof
end

