-- ==== Sys2Proof/Laws/PerInstr.lean ====
section
/-! SUPPORT. One statement about every instruction as syntax: under the mask of its row of
spec/opcode_table.json, the word it is encoded to is the row's match value (30/R102, R112 to R115). -/

namespace Sys2Proof.Laws

open Sys2Proof.Machine

/-! ### The masks of the formats -/

theorem mask_jWord (op : BitVec 7) (addr : BitVec 25) : jWord op addr &&& 0xFE000000#32 = jWord op 0 := by
  apply BitVec.eq_of_getLsbD_eq
  intro k hk
  rw [BitVec.getLsbD_and, jWord_eq_append, jWord_eq_append]
  simp only [BitVec.getLsbD_append]
  interval_cases k <;> simp

theorem mask_iWord (op : BitVec 7) (rs rt : RegNum) (imm : BitVec 15) :
    iWord op rs rt imm &&& 0xFE000000#32 = iWord op 0 0 0 := by
  apply BitVec.eq_of_getLsbD_eq
  intro k hk
  rw [BitVec.getLsbD_and, iWord_eq_append, iWord_eq_append]
  simp only [BitVec.getLsbD_append]
  interval_cases k <;> simp

theorem mask_rWord (op : BitVec 7) (rs rt rd : RegNum) (func : BitVec 10) :
    rWord op rs rt rd func &&& 0xFE0003FF#32 = rWord op 0 0 0 func := by
  apply BitVec.eq_of_getLsbD_eq
  intro k hk
  rw [BitVec.getLsbD_and, rWord_eq_append, rWord_eq_append]
  simp only [BitVec.getLsbD_append]
  interval_cases k <;> simp

theorem mask_eiWord (op : BitVec 7) (rd : RegNum) (func : BitVec 4) (imm : BitVec 16) :
    eiWord op rd func imm &&& 0xFE0F0000#32 = eiWord op 0 func 0 := by
  apply BitVec.eq_of_getLsbD_eq
  intro k hk
  rw [BitVec.getLsbD_and, eiWord_eq_append, eiWord_eq_append]
  simp only [BitVec.getLsbD_append]
  interval_cases k <;> simp

/-! ### The rows -/

/-- The mask and the match value of the instruction's row of spec/opcode_table.json. -/
def rowOf : Instr → InstrWord × InstrWord
  | .nop _ => (0xFE000000, 0x00000000)
  | .syscall _ => (0xFE000000, 0x02000000)
  | .j _ => (0xFE000000, 0x04000000)
  | .jal _ => (0xFE000000, 0x06000000)
  | .add _ _ _ => (0xFE0003FF, 0x10000000)
  | .sub _ _ _ => (0xFE0003FF, 0x10000001)
  | .addw _ _ _ => (0xFE0003FF, 0x10000002)
  | .subw _ _ _ => (0xFE0003FF, 0x10000003)
  | .mult _ _ _ => (0xFE0003FF, 0x10000004)
  | .multu _ _ _ => (0xFE0003FF, 0x10000005)
  | .multw _ _ _ => (0xFE0003FF, 0x10000006)
  | .multuw _ _ _ => (0xFE0003FF, 0x10000007)
  | .div _ _ _ => (0xFE0003FF, 0x10000008)
  | .divu _ _ _ => (0xFE0003FF, 0x10000009)
  | .divw _ _ _ => (0xFE0003FF, 0x1000000A)
  | .divuw _ _ _ => (0xFE0003FF, 0x1000000B)
  | .mfhi _ _ _ => (0xFE0003FF, 0x1000000C)
  | .mflo _ _ _ => (0xFE0003FF, 0x1000000D)
  | .mthi _ _ _ => (0xFE0003FF, 0x1000000E)
  | .mtlo _ _ _ => (0xFE0003FF, 0x1000000F)
  | .and _ _ _ => (0xFE0003FF, 0x10000010)
  | .or _ _ _ => (0xFE0003FF, 0x10000011)
  | .xor _ _ _ => (0xFE0003FF, 0x10000012)
  | .nor _ _ _ => (0xFE0003FF, 0x10000013)
  | .sll _ _ _ => (0xFE0003FF, 0x10000014)
  | .srl _ _ _ => (0xFE0003FF, 0x10000015)
  | .sra _ _ _ => (0xFE0003FF, 0x10000016)
  | .sllw _ _ _ => (0xFE0003FF, 0x10000017)
  | .srlw _ _ _ => (0xFE0003FF, 0x10000018)
  | .sraw _ _ _ => (0xFE0003FF, 0x10000019)
  | .slt _ _ _ => (0xFE0003FF, 0x1000001A)
  | .sltu _ _ _ => (0xFE0003FF, 0x1000001B)
  | .jr _ _ _ => (0xFE0003FF, 0x10000020)
  | .jalr _ _ _ => (0xFE0003FF, 0x10000021)
  | .lbx _ _ _ => (0xFE0003FF, 0x10000030)
  | .lbux _ _ _ => (0xFE0003FF, 0x10000031)
  | .lhx _ _ _ => (0xFE0003FF, 0x10000032)
  | .lhux _ _ _ => (0xFE0003FF, 0x10000033)
  | .lwx _ _ _ => (0xFE0003FF, 0x10000034)
  | .lwux _ _ _ => (0xFE0003FF, 0x10000035)
  | .ldx _ _ _ => (0xFE0003FF, 0x10000036)
  | .sbx _ _ _ => (0xFE0003FF, 0x10000038)
  | .shx _ _ _ => (0xFE0003FF, 0x10000039)
  | .swx _ _ _ => (0xFE0003FF, 0x1000003A)
  | .sdx _ _ _ => (0xFE0003FF, 0x1000003B)
  | .vaddi32 _ _ _ => (0xFE0003FF, 0x12000000)
  | .vaddi64 _ _ _ => (0xFE0003FF, 0x12000001)
  | .vaddf32 _ _ _ => (0xFE0003FF, 0x12000002)
  | .vaddf64 _ _ _ => (0xFE0003FF, 0x12000003)
  | .vsubi32 _ _ _ => (0xFE0003FF, 0x12000004)
  | .vsubi64 _ _ _ => (0xFE0003FF, 0x12000005)
  | .vsubf32 _ _ _ => (0xFE0003FF, 0x12000006)
  | .vsubf64 _ _ _ => (0xFE0003FF, 0x12000007)
  | .vmuli32 _ _ _ => (0xFE0003FF, 0x12000008)
  | .vmuli64 _ _ _ => (0xFE0003FF, 0x12000009)
  | .vmulf32 _ _ _ => (0xFE0003FF, 0x1200000A)
  | .vmulf64 _ _ _ => (0xFE0003FF, 0x1200000B)
  | .vdivi32 _ _ _ => (0xFE0003FF, 0x1200000C)
  | .vdivi64 _ _ _ => (0xFE0003FF, 0x1200000D)
  | .vdivf32 _ _ _ => (0xFE0003FF, 0x1200000E)
  | .vdivf64 _ _ _ => (0xFE0003FF, 0x1200000F)
  | .vand _ _ _ => (0xFE0003FF, 0x12000010)
  | .vor _ _ _ => (0xFE0003FF, 0x12000011)
  | .vxor _ _ _ => (0xFE0003FF, 0x12000012)
  | .vnor _ _ _ => (0xFE0003FF, 0x12000013)
  | .vsll32 _ _ _ => (0xFE0003FF, 0x12000020)
  | .vsll64 _ _ _ => (0xFE0003FF, 0x12000021)
  | .vsrl32 _ _ _ => (0xFE0003FF, 0x12000022)
  | .vsrl64 _ _ _ => (0xFE0003FF, 0x12000023)
  | .vsra32 _ _ _ => (0xFE0003FF, 0x12000024)
  | .vsra64 _ _ _ => (0xFE0003FF, 0x12000025)
  | .vsllv32 _ _ _ => (0xFE0003FF, 0x12000028)
  | .vsllv64 _ _ _ => (0xFE0003FF, 0x12000029)
  | .vsrlv32 _ _ _ => (0xFE0003FF, 0x1200002A)
  | .vsrlv64 _ _ _ => (0xFE0003FF, 0x1200002B)
  | .vsrav32 _ _ _ => (0xFE0003FF, 0x1200002C)
  | .vsrav64 _ _ _ => (0xFE0003FF, 0x1200002D)
  | .vseqi32 _ _ _ => (0xFE0003FF, 0x12000030)
  | .vseqi64 _ _ _ => (0xFE0003FF, 0x12000031)
  | .vseqf32 _ _ _ => (0xFE0003FF, 0x12000032)
  | .vseqf64 _ _ _ => (0xFE0003FF, 0x12000033)
  | .vslti32 _ _ _ => (0xFE0003FF, 0x12000034)
  | .vslti64 _ _ _ => (0xFE0003FF, 0x12000035)
  | .vsltf32 _ _ _ => (0xFE0003FF, 0x12000036)
  | .vsltf64 _ _ _ => (0xFE0003FF, 0x12000037)
  | .vcvti32f32 _ _ _ => (0xFE0003FF, 0x12000040)
  | .vcvti64f64 _ _ _ => (0xFE0003FF, 0x12000041)
  | .vcvtf32i32 _ _ _ => (0xFE0003FF, 0x12000042)
  | .vcvtf64i64 _ _ _ => (0xFE0003FF, 0x12000043)
  | .vsumi32 _ _ _ => (0xFE0003FF, 0x12000048)
  | .vsumi64 _ _ _ => (0xFE0003FF, 0x12000049)
  | .vsumf32 _ _ _ => (0xFE0003FF, 0x1200004A)
  | .vsumf64 _ _ _ => (0xFE0003FF, 0x1200004B)
  | .vmsb32 _ _ _ => (0xFE0003FF, 0x12000050)
  | .vmsb64 _ _ _ => (0xFE0003FF, 0x12000051)
  | .vlsb32 _ _ _ => (0xFE0003FF, 0x12000052)
  | .vlsb64 _ _ _ => (0xFE0003FF, 0x12000053)
  | .vshuf32 _ _ _ => (0xFE0003FF, 0x12000058)
  | .vshuf64 _ _ _ => (0xFE0003FF, 0x12000059)
  | .addi _ _ _ => (0xFE000000, 0x20000000)
  | .addiu _ _ _ => (0xFE000000, 0x22000000)
  | .addwi _ _ _ => (0xFE000000, 0x24000000)
  | .addwiu _ _ _ => (0xFE000000, 0x26000000)
  | .andi _ _ _ => (0xFE000000, 0x28000000)
  | .andiu _ _ _ => (0xFE000000, 0x2A000000)
  | .ori _ _ _ => (0xFE000000, 0x2C000000)
  | .oriu _ _ _ => (0xFE000000, 0x2E000000)
  | .xori _ _ _ => (0xFE000000, 0x30000000)
  | .xoriu _ _ _ => (0xFE000000, 0x32000000)
  | .slti _ _ _ => (0xFE000000, 0x34000000)
  | .sltiu _ _ _ => (0xFE000000, 0x36000000)
  | .slli _ _ _ => (0xFE000000, 0x38000000)
  | .srli _ _ _ => (0xFE000000, 0x3A000000)
  | .srai _ _ _ => (0xFE000000, 0x3C000000)
  | .sllwi _ _ _ => (0xFE000000, 0x3E000000)
  | .srlwi _ _ _ => (0xFE000000, 0x40000000)
  | .srawi _ _ _ => (0xFE000000, 0x42000000)
  | .lb _ _ _ => (0xFE000000, 0x50000000)
  | .lbu _ _ _ => (0xFE000000, 0x52000000)
  | .lh _ _ _ => (0xFE000000, 0x54000000)
  | .lhu _ _ _ => (0xFE000000, 0x56000000)
  | .lw _ _ _ => (0xFE000000, 0x58000000)
  | .lwu _ _ _ => (0xFE000000, 0x5A000000)
  | .ld _ _ _ => (0xFE000000, 0x5C000000)
  | .sb _ _ _ => (0xFE000000, 0x60000000)
  | .sh _ _ _ => (0xFE000000, 0x62000000)
  | .sw _ _ _ => (0xFE000000, 0x64000000)
  | .sd _ _ _ => (0xFE000000, 0x66000000)
  | .vld _ _ _ => (0xFE000000, 0x68000000)
  | .vst _ _ _ => (0xFE000000, 0x6A000000)
  | .beq _ _ _ => (0xFE000000, 0x70000000)
  | .bne _ _ _ => (0xFE000000, 0x72000000)
  | .blt _ _ _ => (0xFE000000, 0x74000000)
  | .bge _ _ _ => (0xFE000000, 0x76000000)
  | .bltu _ _ _ => (0xFE000000, 0x78000000)
  | .bgeu _ _ _ => (0xFE000000, 0x7A000000)
  | .li0 _ _ => (0xFE0F0000, 0x80000000)
  | .li1 _ _ => (0xFE0F0000, 0x80010000)
  | .li2 _ _ => (0xFE0F0000, 0x80020000)
  | .li3 _ _ => (0xFE0F0000, 0x80030000)

namespace OpcodeOfRow

/-- Under the mask of its row the instruction's word is the row's match value. -/
def Statement (i : Instr) : Prop := encode i &&& (rowOf i).1 = (rowOf i).2

theorem nop (addr : BitVec 25) : Statement (.nop addr) :=
  mask_jWord _ addr
theorem syscall (addr : BitVec 25) : Statement (.syscall addr) :=
  mask_jWord _ addr
theorem j (addr : BitVec 25) : Statement (.j addr) :=
  mask_jWord _ addr
theorem jal (addr : BitVec 25) : Statement (.jal addr) :=
  mask_jWord _ addr
theorem add (rs rt rd : RegNum) : Statement (.add rs rt rd) :=
  mask_rWord _ rs rt rd _
theorem sub (rs rt rd : RegNum) : Statement (.sub rs rt rd) :=
  mask_rWord _ rs rt rd _
theorem addw (rs rt rd : RegNum) : Statement (.addw rs rt rd) :=
  mask_rWord _ rs rt rd _
theorem subw (rs rt rd : RegNum) : Statement (.subw rs rt rd) :=
  mask_rWord _ rs rt rd _
theorem mult (rs rt rd : RegNum) : Statement (.mult rs rt rd) :=
  mask_rWord _ rs rt rd _
theorem multu (rs rt rd : RegNum) : Statement (.multu rs rt rd) :=
  mask_rWord _ rs rt rd _
theorem multw (rs rt rd : RegNum) : Statement (.multw rs rt rd) :=
  mask_rWord _ rs rt rd _
theorem multuw (rs rt rd : RegNum) : Statement (.multuw rs rt rd) :=
  mask_rWord _ rs rt rd _
theorem div (rs rt rd : RegNum) : Statement (.div rs rt rd) :=
  mask_rWord _ rs rt rd _
theorem divu (rs rt rd : RegNum) : Statement (.divu rs rt rd) :=
  mask_rWord _ rs rt rd _
theorem divw (rs rt rd : RegNum) : Statement (.divw rs rt rd) :=
  mask_rWord _ rs rt rd _
theorem divuw (rs rt rd : RegNum) : Statement (.divuw rs rt rd) :=
  mask_rWord _ rs rt rd _
theorem mfhi (rs rt rd : RegNum) : Statement (.mfhi rs rt rd) :=
  mask_rWord _ rs rt rd _
theorem mflo (rs rt rd : RegNum) : Statement (.mflo rs rt rd) :=
  mask_rWord _ rs rt rd _
theorem mthi (rs rt rd : RegNum) : Statement (.mthi rs rt rd) :=
  mask_rWord _ rs rt rd _
theorem mtlo (rs rt rd : RegNum) : Statement (.mtlo rs rt rd) :=
  mask_rWord _ rs rt rd _
theorem and (rs rt rd : RegNum) : Statement (.and rs rt rd) :=
  mask_rWord _ rs rt rd _
theorem or (rs rt rd : RegNum) : Statement (.or rs rt rd) :=
  mask_rWord _ rs rt rd _
theorem xor (rs rt rd : RegNum) : Statement (.xor rs rt rd) :=
  mask_rWord _ rs rt rd _
theorem nor (rs rt rd : RegNum) : Statement (.nor rs rt rd) :=
  mask_rWord _ rs rt rd _
theorem sll (rs rt rd : RegNum) : Statement (.sll rs rt rd) :=
  mask_rWord _ rs rt rd _
theorem srl (rs rt rd : RegNum) : Statement (.srl rs rt rd) :=
  mask_rWord _ rs rt rd _
theorem sra (rs rt rd : RegNum) : Statement (.sra rs rt rd) :=
  mask_rWord _ rs rt rd _
theorem sllw (rs rt rd : RegNum) : Statement (.sllw rs rt rd) :=
  mask_rWord _ rs rt rd _
theorem srlw (rs rt rd : RegNum) : Statement (.srlw rs rt rd) :=
  mask_rWord _ rs rt rd _
theorem sraw (rs rt rd : RegNum) : Statement (.sraw rs rt rd) :=
  mask_rWord _ rs rt rd _
theorem slt (rs rt rd : RegNum) : Statement (.slt rs rt rd) :=
  mask_rWord _ rs rt rd _
theorem sltu (rs rt rd : RegNum) : Statement (.sltu rs rt rd) :=
  mask_rWord _ rs rt rd _
theorem jr (rs rt rd : RegNum) : Statement (.jr rs rt rd) :=
  mask_rWord _ rs rt rd _
theorem jalr (rs rt rd : RegNum) : Statement (.jalr rs rt rd) :=
  mask_rWord _ rs rt rd _
theorem lbx (rs rt rd : RegNum) : Statement (.lbx rs rt rd) :=
  mask_rWord _ rs rt rd _
theorem lbux (rs rt rd : RegNum) : Statement (.lbux rs rt rd) :=
  mask_rWord _ rs rt rd _
theorem lhx (rs rt rd : RegNum) : Statement (.lhx rs rt rd) :=
  mask_rWord _ rs rt rd _
theorem lhux (rs rt rd : RegNum) : Statement (.lhux rs rt rd) :=
  mask_rWord _ rs rt rd _
theorem lwx (rs rt rd : RegNum) : Statement (.lwx rs rt rd) :=
  mask_rWord _ rs rt rd _
theorem lwux (rs rt rd : RegNum) : Statement (.lwux rs rt rd) :=
  mask_rWord _ rs rt rd _
theorem ldx (rs rt rd : RegNum) : Statement (.ldx rs rt rd) :=
  mask_rWord _ rs rt rd _
theorem sbx (rs rt rd : RegNum) : Statement (.sbx rs rt rd) :=
  mask_rWord _ rs rt rd _
theorem shx (rs rt rd : RegNum) : Statement (.shx rs rt rd) :=
  mask_rWord _ rs rt rd _
theorem swx (rs rt rd : RegNum) : Statement (.swx rs rt rd) :=
  mask_rWord _ rs rt rd _
theorem sdx (rs rt rd : RegNum) : Statement (.sdx rs rt rd) :=
  mask_rWord _ rs rt rd _
theorem vaddi32 (rs rt rd : RegNum) : Statement (.vaddi32 rs rt rd) :=
  mask_rWord _ rs rt rd _
theorem vaddi64 (rs rt rd : RegNum) : Statement (.vaddi64 rs rt rd) :=
  mask_rWord _ rs rt rd _
theorem vaddf32 (rs rt rd : RegNum) : Statement (.vaddf32 rs rt rd) :=
  mask_rWord _ rs rt rd _
theorem vaddf64 (rs rt rd : RegNum) : Statement (.vaddf64 rs rt rd) :=
  mask_rWord _ rs rt rd _
theorem vsubi32 (rs rt rd : RegNum) : Statement (.vsubi32 rs rt rd) :=
  mask_rWord _ rs rt rd _
theorem vsubi64 (rs rt rd : RegNum) : Statement (.vsubi64 rs rt rd) :=
  mask_rWord _ rs rt rd _
theorem vsubf32 (rs rt rd : RegNum) : Statement (.vsubf32 rs rt rd) :=
  mask_rWord _ rs rt rd _
theorem vsubf64 (rs rt rd : RegNum) : Statement (.vsubf64 rs rt rd) :=
  mask_rWord _ rs rt rd _
theorem vmuli32 (rs rt rd : RegNum) : Statement (.vmuli32 rs rt rd) :=
  mask_rWord _ rs rt rd _
theorem vmuli64 (rs rt rd : RegNum) : Statement (.vmuli64 rs rt rd) :=
  mask_rWord _ rs rt rd _
theorem vmulf32 (rs rt rd : RegNum) : Statement (.vmulf32 rs rt rd) :=
  mask_rWord _ rs rt rd _
theorem vmulf64 (rs rt rd : RegNum) : Statement (.vmulf64 rs rt rd) :=
  mask_rWord _ rs rt rd _
theorem vdivi32 (rs rt rd : RegNum) : Statement (.vdivi32 rs rt rd) :=
  mask_rWord _ rs rt rd _
theorem vdivi64 (rs rt rd : RegNum) : Statement (.vdivi64 rs rt rd) :=
  mask_rWord _ rs rt rd _
theorem vdivf32 (rs rt rd : RegNum) : Statement (.vdivf32 rs rt rd) :=
  mask_rWord _ rs rt rd _
theorem vdivf64 (rs rt rd : RegNum) : Statement (.vdivf64 rs rt rd) :=
  mask_rWord _ rs rt rd _
theorem vand (rs rt rd : RegNum) : Statement (.vand rs rt rd) :=
  mask_rWord _ rs rt rd _
theorem vor (rs rt rd : RegNum) : Statement (.vor rs rt rd) :=
  mask_rWord _ rs rt rd _
theorem vxor (rs rt rd : RegNum) : Statement (.vxor rs rt rd) :=
  mask_rWord _ rs rt rd _
theorem vnor (rs rt rd : RegNum) : Statement (.vnor rs rt rd) :=
  mask_rWord _ rs rt rd _
theorem vsll32 (rs rt rd : RegNum) : Statement (.vsll32 rs rt rd) :=
  mask_rWord _ rs rt rd _
theorem vsll64 (rs rt rd : RegNum) : Statement (.vsll64 rs rt rd) :=
  mask_rWord _ rs rt rd _
theorem vsrl32 (rs rt rd : RegNum) : Statement (.vsrl32 rs rt rd) :=
  mask_rWord _ rs rt rd _
theorem vsrl64 (rs rt rd : RegNum) : Statement (.vsrl64 rs rt rd) :=
  mask_rWord _ rs rt rd _
theorem vsra32 (rs rt rd : RegNum) : Statement (.vsra32 rs rt rd) :=
  mask_rWord _ rs rt rd _
theorem vsra64 (rs rt rd : RegNum) : Statement (.vsra64 rs rt rd) :=
  mask_rWord _ rs rt rd _
theorem vsllv32 (rs rt rd : RegNum) : Statement (.vsllv32 rs rt rd) :=
  mask_rWord _ rs rt rd _
theorem vsllv64 (rs rt rd : RegNum) : Statement (.vsllv64 rs rt rd) :=
  mask_rWord _ rs rt rd _
theorem vsrlv32 (rs rt rd : RegNum) : Statement (.vsrlv32 rs rt rd) :=
  mask_rWord _ rs rt rd _
theorem vsrlv64 (rs rt rd : RegNum) : Statement (.vsrlv64 rs rt rd) :=
  mask_rWord _ rs rt rd _
theorem vsrav32 (rs rt rd : RegNum) : Statement (.vsrav32 rs rt rd) :=
  mask_rWord _ rs rt rd _
theorem vsrav64 (rs rt rd : RegNum) : Statement (.vsrav64 rs rt rd) :=
  mask_rWord _ rs rt rd _
theorem vseqi32 (rs rt rd : RegNum) : Statement (.vseqi32 rs rt rd) :=
  mask_rWord _ rs rt rd _
theorem vseqi64 (rs rt rd : RegNum) : Statement (.vseqi64 rs rt rd) :=
  mask_rWord _ rs rt rd _
theorem vseqf32 (rs rt rd : RegNum) : Statement (.vseqf32 rs rt rd) :=
  mask_rWord _ rs rt rd _
theorem vseqf64 (rs rt rd : RegNum) : Statement (.vseqf64 rs rt rd) :=
  mask_rWord _ rs rt rd _
theorem vslti32 (rs rt rd : RegNum) : Statement (.vslti32 rs rt rd) :=
  mask_rWord _ rs rt rd _
theorem vslti64 (rs rt rd : RegNum) : Statement (.vslti64 rs rt rd) :=
  mask_rWord _ rs rt rd _
theorem vsltf32 (rs rt rd : RegNum) : Statement (.vsltf32 rs rt rd) :=
  mask_rWord _ rs rt rd _
theorem vsltf64 (rs rt rd : RegNum) : Statement (.vsltf64 rs rt rd) :=
  mask_rWord _ rs rt rd _
theorem vcvti32f32 (rs rt rd : RegNum) : Statement (.vcvti32f32 rs rt rd) :=
  mask_rWord _ rs rt rd _
theorem vcvti64f64 (rs rt rd : RegNum) : Statement (.vcvti64f64 rs rt rd) :=
  mask_rWord _ rs rt rd _
theorem vcvtf32i32 (rs rt rd : RegNum) : Statement (.vcvtf32i32 rs rt rd) :=
  mask_rWord _ rs rt rd _
theorem vcvtf64i64 (rs rt rd : RegNum) : Statement (.vcvtf64i64 rs rt rd) :=
  mask_rWord _ rs rt rd _
theorem vsumi32 (rs rt rd : RegNum) : Statement (.vsumi32 rs rt rd) :=
  mask_rWord _ rs rt rd _
theorem vsumi64 (rs rt rd : RegNum) : Statement (.vsumi64 rs rt rd) :=
  mask_rWord _ rs rt rd _
theorem vsumf32 (rs rt rd : RegNum) : Statement (.vsumf32 rs rt rd) :=
  mask_rWord _ rs rt rd _
theorem vsumf64 (rs rt rd : RegNum) : Statement (.vsumf64 rs rt rd) :=
  mask_rWord _ rs rt rd _
theorem vmsb32 (rs rt rd : RegNum) : Statement (.vmsb32 rs rt rd) :=
  mask_rWord _ rs rt rd _
theorem vmsb64 (rs rt rd : RegNum) : Statement (.vmsb64 rs rt rd) :=
  mask_rWord _ rs rt rd _
theorem vlsb32 (rs rt rd : RegNum) : Statement (.vlsb32 rs rt rd) :=
  mask_rWord _ rs rt rd _
theorem vlsb64 (rs rt rd : RegNum) : Statement (.vlsb64 rs rt rd) :=
  mask_rWord _ rs rt rd _
theorem vshuf32 (rs rt rd : RegNum) : Statement (.vshuf32 rs rt rd) :=
  mask_rWord _ rs rt rd _
theorem vshuf64 (rs rt rd : RegNum) : Statement (.vshuf64 rs rt rd) :=
  mask_rWord _ rs rt rd _
theorem addi (rs rt : RegNum) (imm : BitVec 15) : Statement (.addi rs rt imm) :=
  mask_iWord _ rs rt imm
theorem addiu (rs rt : RegNum) (imm : BitVec 15) : Statement (.addiu rs rt imm) :=
  mask_iWord _ rs rt imm
theorem addwi (rs rt : RegNum) (imm : BitVec 15) : Statement (.addwi rs rt imm) :=
  mask_iWord _ rs rt imm
theorem addwiu (rs rt : RegNum) (imm : BitVec 15) : Statement (.addwiu rs rt imm) :=
  mask_iWord _ rs rt imm
theorem andi (rs rt : RegNum) (imm : BitVec 15) : Statement (.andi rs rt imm) :=
  mask_iWord _ rs rt imm
theorem andiu (rs rt : RegNum) (imm : BitVec 15) : Statement (.andiu rs rt imm) :=
  mask_iWord _ rs rt imm
theorem ori (rs rt : RegNum) (imm : BitVec 15) : Statement (.ori rs rt imm) :=
  mask_iWord _ rs rt imm
theorem oriu (rs rt : RegNum) (imm : BitVec 15) : Statement (.oriu rs rt imm) :=
  mask_iWord _ rs rt imm
theorem xori (rs rt : RegNum) (imm : BitVec 15) : Statement (.xori rs rt imm) :=
  mask_iWord _ rs rt imm
theorem xoriu (rs rt : RegNum) (imm : BitVec 15) : Statement (.xoriu rs rt imm) :=
  mask_iWord _ rs rt imm
theorem slti (rs rt : RegNum) (imm : BitVec 15) : Statement (.slti rs rt imm) :=
  mask_iWord _ rs rt imm
theorem sltiu (rs rt : RegNum) (imm : BitVec 15) : Statement (.sltiu rs rt imm) :=
  mask_iWord _ rs rt imm
theorem slli (rs rt : RegNum) (imm : BitVec 15) : Statement (.slli rs rt imm) :=
  mask_iWord _ rs rt imm
theorem srli (rs rt : RegNum) (imm : BitVec 15) : Statement (.srli rs rt imm) :=
  mask_iWord _ rs rt imm
theorem srai (rs rt : RegNum) (imm : BitVec 15) : Statement (.srai rs rt imm) :=
  mask_iWord _ rs rt imm
theorem sllwi (rs rt : RegNum) (imm : BitVec 15) : Statement (.sllwi rs rt imm) :=
  mask_iWord _ rs rt imm
theorem srlwi (rs rt : RegNum) (imm : BitVec 15) : Statement (.srlwi rs rt imm) :=
  mask_iWord _ rs rt imm
theorem srawi (rs rt : RegNum) (imm : BitVec 15) : Statement (.srawi rs rt imm) :=
  mask_iWord _ rs rt imm
theorem lb (rs rt : RegNum) (imm : BitVec 15) : Statement (.lb rs rt imm) :=
  mask_iWord _ rs rt imm
theorem lbu (rs rt : RegNum) (imm : BitVec 15) : Statement (.lbu rs rt imm) :=
  mask_iWord _ rs rt imm
theorem lh (rs rt : RegNum) (imm : BitVec 15) : Statement (.lh rs rt imm) :=
  mask_iWord _ rs rt imm
theorem lhu (rs rt : RegNum) (imm : BitVec 15) : Statement (.lhu rs rt imm) :=
  mask_iWord _ rs rt imm
theorem lw (rs rt : RegNum) (imm : BitVec 15) : Statement (.lw rs rt imm) :=
  mask_iWord _ rs rt imm
theorem lwu (rs rt : RegNum) (imm : BitVec 15) : Statement (.lwu rs rt imm) :=
  mask_iWord _ rs rt imm
theorem ld (rs rt : RegNum) (imm : BitVec 15) : Statement (.ld rs rt imm) :=
  mask_iWord _ rs rt imm
theorem sb (rs rt : RegNum) (imm : BitVec 15) : Statement (.sb rs rt imm) :=
  mask_iWord _ rs rt imm
theorem sh (rs rt : RegNum) (imm : BitVec 15) : Statement (.sh rs rt imm) :=
  mask_iWord _ rs rt imm
theorem sw (rs rt : RegNum) (imm : BitVec 15) : Statement (.sw rs rt imm) :=
  mask_iWord _ rs rt imm
theorem sd (rs rt : RegNum) (imm : BitVec 15) : Statement (.sd rs rt imm) :=
  mask_iWord _ rs rt imm
theorem vld (rs rt : RegNum) (imm : BitVec 15) : Statement (.vld rs rt imm) :=
  mask_iWord _ rs rt imm
theorem vst (rs rt : RegNum) (imm : BitVec 15) : Statement (.vst rs rt imm) :=
  mask_iWord _ rs rt imm
theorem beq (rs rt : RegNum) (imm : BitVec 15) : Statement (.beq rs rt imm) :=
  mask_iWord _ rs rt imm
theorem bne (rs rt : RegNum) (imm : BitVec 15) : Statement (.bne rs rt imm) :=
  mask_iWord _ rs rt imm
theorem blt (rs rt : RegNum) (imm : BitVec 15) : Statement (.blt rs rt imm) :=
  mask_iWord _ rs rt imm
theorem bge (rs rt : RegNum) (imm : BitVec 15) : Statement (.bge rs rt imm) :=
  mask_iWord _ rs rt imm
theorem bltu (rs rt : RegNum) (imm : BitVec 15) : Statement (.bltu rs rt imm) :=
  mask_iWord _ rs rt imm
theorem bgeu (rs rt : RegNum) (imm : BitVec 15) : Statement (.bgeu rs rt imm) :=
  mask_iWord _ rs rt imm
theorem li0 (rd : RegNum) (imm : BitVec 16) : Statement (.li0 rd imm) :=
  mask_eiWord _ rd _ imm
theorem li1 (rd : RegNum) (imm : BitVec 16) : Statement (.li1 rd imm) :=
  mask_eiWord _ rd _ imm
theorem li2 (rd : RegNum) (imm : BitVec 16) : Statement (.li2 rd imm) :=
  mask_eiWord _ rd _ imm
theorem li3 (rd : RegNum) (imm : BitVec 16) : Statement (.li3 rd imm) :=
  mask_eiWord _ rd _ imm

end OpcodeOfRow

end Sys2Proof.Laws
end

