-- ==== Sys2Proof/Laws/Rounding.lean ====
section
/-! SUPPORT. Rounding to nearest is to the nearest magnitude pattern (44/R273): the order and the spacing of the patterns,
and what one rounded quotient can be. -/

namespace Sys2Proof.Machine

/-! ### The patterns of a format are in the order of their magnitudes -/

/-- From one pattern to the next: a step of the binade the pattern is in. -/
theorem FloatFormat.quanta_succ (F : FloatFormat) (m : Nat) :
    F.quanta (m + 1) = F.quanta m + 2 ^ (m / 2 ^ F.fracBits - 1) := by
  have hp : 0 < 2 ^ F.fracBits := Nat.two_pow_pos _
  have h2 : 2 ^ (F.fracBits + 1) = 2 * 2 ^ F.fracBits := by rw [Nat.pow_succ, Nat.mul_comm]
  unfold FloatFormat.quanta
  rw [h2]
  generalize 2 ^ F.fracBits = p at *
  have hd := Nat.div_add_mod m p
  have hm := Nat.mod_lt m hp
  have hd' := Nat.div_add_mod (m + 1) p
  have hm' := Nat.mod_lt (m + 1) hp
  generalize hq : m / p = e at *
  generalize hr : m % p = r at *
  generalize hq' : (m + 1) / p = e' at *
  generalize hr' : (m + 1) % p = r' at *
  have hcase : (e' = e ∧ r' = r + 1) ∨ (e' = e + 1 ∧ r' = 0 ∧ r + 1 = p) := by
    by_cases hc : r + 1 < p
    · left
      have h1 : e' = e := by rw [← hq', ← hd, Nat.add_assoc, Nat.mul_add_div hp, Nat.div_eq_of_lt hc, Nat.add_zero]
      exact ⟨h1, by subst h1; omega⟩
    · right
      have h0 : r + 1 = p := by omega
      have h1 : e' = e + 1 := by
        rw [← hq', ← hd, Nat.add_assoc, h0, Nat.mul_add_div hp, Nat.div_self hp]
      exact ⟨h1, by subst h1; rw [Nat.mul_add, Nat.mul_one] at hd'; omega, h0⟩
  rcases Nat.lt_or_ge e 2 with he | he
  · have hs : e - 1 = 0 := by omega
    have hlt : m < 2 * p := by
      have : p * e ≤ p * 1 := Nat.mul_le_mul_left p (by omega)
      omega
    rw [if_pos hlt, hs, Nat.pow_zero]
    split
    · rfl
    · have hm1 : m + 1 = 2 * p := by omega
      have h1 : r' = 0 := by rw [← hr', hm1, Nat.mul_mod_left]
      have h3 : e' = 2 := by rw [← hq', hm1, Nat.mul_div_cancel _ hp]
      rw [h1, h3]; omega
  · have hge : 2 * p ≤ m := by
      have : p * 2 ≤ p * e := Nat.mul_le_mul_left p he
      omega
    rw [if_neg (by omega), if_neg (by omega)]
    rcases hcase with ⟨rfl, rfl⟩ | ⟨rfl, rfl, h0⟩
    · ring
    · obtain ⟨j, rfl⟩ : ∃ j, e = j + 1 := ⟨e - 1, by omega⟩
      simp only [Nat.add_sub_cancel, Nat.pow_succ]
      rw [← h0]; ring

theorem FloatFormat.quanta_strictMono (F : FloatFormat) : StrictMono F.quanta :=
  strictMono_nat_of_lt_succ fun m => by rw [F.quanta_succ]; have := Nat.two_pow_pos (m / 2 ^ F.fracBits - 1); omega

/-- The pattern of a significand of the right size after `k` dropped bits. -/
theorem FloatFormat.quanta_shifted (F : FloatFormat) (k sig : Nat) (hs : sig ≤ 2 ^ (F.fracBits + 1))
    (hk : k = 0 ∨ 2 ^ F.fracBits ≤ sig) : F.quanta (k * 2 ^ F.fracBits + sig) = sig * 2 ^ k := by
  have hp : 0 < 2 ^ F.fracBits := Nat.two_pow_pos _
  have h2 : 2 ^ (F.fracBits + 1) = 2 * 2 ^ F.fracBits := by rw [Nat.pow_succ, Nat.mul_comm]
  unfold FloatFormat.quanta
  rw [h2] at hs ⊢
  generalize 2 ^ F.fracBits = p at *
  split
  · next h =>
    have : k = 0 := by
      rcases hk with h0 | h0
      · exact h0
      · by_contra hc
        have : 1 * p ≤ k * p := Nat.mul_le_mul_right p (by omega)
        omega
    subst this; simp
  · next h =>
    rcases Nat.lt_or_ge sig (2 * p) with hlt | hge
    · have hsig : p ≤ sig := by
        rcases hk with rfl | h0
        · omega
        · exact h0
      have e : k * p + sig = p * (k + 1) + (sig - p) := by
        rw [Nat.mul_add, Nat.mul_comm p k]; omega
      rw [e, Nat.mul_add_mod, Nat.mod_eq_of_lt (by omega : sig - p < p), Nat.mul_add_div hp,
        Nat.div_eq_of_lt (by omega : sig - p < p), show p + (sig - p) = sig by omega]
      simp
    · have hsig : sig = 2 * p := by omega
      subst hsig
      have e : k * p + 2 * p = p * (k + 2) := by ring
      rw [e, Nat.mul_mod_right, Nat.mul_div_cancel_left _ hp]
      simp only [Nat.add_zero, show k + 2 - 1 = k + 1 by omega, Nat.pow_succ]; ring

/-! ### One rounded quotient -/

/-- What rounding a quotient to nearest gives: at most half a unit away, and even at exactly half. -/
theorem roundQuotient_nearest (neg : Bool) (num den : Nat) (hd : 0 < den) :
    2 * roundQuotient .nearest neg num den * den ≤ 2 * num + den ∧
      2 * num ≤ 2 * roundQuotient .nearest neg num den * den + den ∧
      (2 * roundQuotient .nearest neg num den * den = 2 * num + den ∨
        2 * num = 2 * roundQuotient .nearest neg num den * den + den → roundQuotient .nearest neg num den % 2 = 0) := by
  unfold roundQuotient roundsAway
  have h := Nat.div_add_mod num den
  have hr := Nat.mod_lt num hd
  generalize num / den = q at *
  generalize num % den = r at *
  have e : ∀ x, 2 * x * den = 2 * (den * x) := fun x => by ring
  simp only [Bool.or_eq_true, decide_eq_true_eq, Bool.and_eq_true, beq_iff_eq]
  split
  · rw [e, Nat.mul_add, Nat.mul_one]
    refine ⟨by omega, by omega, fun hc => ?_⟩
    omega
  · rw [e, Nat.add_zero]
    refine ⟨by omega, by omega, fun hc => ?_⟩
    omega

/-- How far the rounded quotient is from the whole part. -/
theorem roundQuotient_whole (mode : RoundMode) (neg : Bool) (num den : Nat) :
    num / den ≤ roundQuotient mode neg num den ∧ roundQuotient mode neg num den ≤ num / den + 1 := by
  unfold roundQuotient
  split <;> omega

/-- The size of the significand that is rounded. -/
theorem FloatFormat.dropped_spec (F : FloatFormat) (num den : Nat) :
    let k := F.dropped (num / den)
    num / (den * 2 ^ k) < 2 ^ (F.fracBits + 1) ∧ (k = 0 ∨ 2 ^ F.fracBits ≤ num / (den * 2 ^ k)) := by
  dsimp only
  unfold FloatFormat.dropped
  rw [← Nat.div_div_eq_div_mul]
  generalize num / den = w
  split
  · next h => exact ⟨by simpa using h, .inl rfl⟩
  · next h =>
    have hw : w ≠ 0 := by
      have := Nat.two_pow_pos (F.fracBits + 1)
      omega
    have hl : F.fracBits + 1 ≤ w.log2 := (Nat.le_log2 hw).mpr (by omega)
    have h1 : 2 ^ w.log2 ≤ w := Nat.log2_self_le hw
    have h2 : w < 2 ^ (w.log2 + 1) := Nat.lt_log2_self
    constructor
    · rw [Nat.div_lt_iff_lt_mul (Nat.two_pow_pos _), ← Nat.pow_add]
      rwa [show F.fracBits + 1 + (w.log2 - F.fracBits) = w.log2 + 1 by omega]
    · right
      rw [Nat.le_div_iff_mul_le (Nat.two_pow_pos _), ← Nat.pow_add]
      rwa [show F.fracBits + (w.log2 - F.fracBits) = w.log2 by omega]

/-- The significand before infinity is put in its place: its pattern, how far it is from the exact value, and where the
patterns next to it are. -/
theorem FloatFormat.significand_spec (F : FloatFormat) (hf : 0 < F.fracBits) (neg : Bool) (num den : Nat) (hd : 0 < den) :
    let k := F.dropped (num / den)
    let m := k * 2 ^ F.fracBits + roundQuotient .nearest neg num (den * 2 ^ k)
    2 * F.quanta m * den ≤ 2 * num + 2 ^ k * den ∧ 2 * num ≤ 2 * F.quanta m * den + 2 ^ k * den ∧
      (2 * F.quanta m * den = 2 * num + 2 ^ k * den ∨ 2 * num = 2 * F.quanta m * den + 2 ^ k * den → m % 2 = 0) ∧
      (∀ n, m < n → F.quanta m + 2 ^ k ≤ F.quanta n) ∧
      ((∀ n, n < m → F.quanta n + 2 ^ k ≤ F.quanta m) ∨ F.quanta m * den ≤ num) := by
  dsimp only
  obtain ⟨hlt, hk⟩ := F.dropped_spec num den
  generalize F.dropped (num / den) = k at *
  obtain ⟨h1, h2, h3⟩ := roundQuotient_nearest neg num (den * 2 ^ k) (Nat.mul_pos hd (Nat.two_pow_pos _))
  obtain ⟨hw1, hw2⟩ := roundQuotient_whole .nearest neg num (den * 2 ^ k)
  have hdiv := Nat.div_mul_le_self num (den * 2 ^ k)
  generalize hsig : roundQuotient .nearest neg num (den * 2 ^ k) = sig at *
  have hq : F.quanta (k * 2 ^ F.fracBits + sig) = sig * 2 ^ k :=
    F.quanta_shifted k sig (by omega) (hk.imp id fun h => le_trans h hw1)
  have hpar : (k * 2 ^ F.fracBits + sig) % 2 = sig % 2 := by
    obtain ⟨j, hj⟩ : ∃ j, F.fracBits = j + 1 := ⟨F.fracBits - 1, by omega⟩
    rw [hj, Nat.pow_succ, ← Nat.mul_assoc, Nat.mul_comm _ 2, Nat.mul_add_mod]
  have hp : 0 < 2 ^ F.fracBits := Nat.two_pow_pos _
  have e : ∀ x, 2 * x * (den * 2 ^ k) = 2 * (x * 2 ^ k) * den := fun x => by ring
  rw [e] at h1 h2 h3
  rw [Nat.mul_comm den] at h1 h2 h3
  rw [hq, hpar]
  refine ⟨h1, h2, h3, fun n hn => ?_, ?_⟩
  · have hs := F.quanta_succ (k * 2 ^ F.fracBits + sig)
    have hmono := F.quanta_strictMono.monotone (show k * 2 ^ F.fracBits + sig + 1 ≤ n by omega)
    have hstep : 2 ^ k ≤ 2 ^ ((k * 2 ^ F.fracBits + sig) / 2 ^ F.fracBits - 1) := by
      apply Nat.pow_le_pow_right (by norm_num)
      rcases hk with rfl | hk
      · omega
      · have : k + 1 ≤ (k * 2 ^ F.fracBits + sig) / 2 ^ F.fracBits := by
          rw [Nat.le_div_iff_mul_le hp, Nat.add_mul, Nat.one_mul]; omega
        omega
    rw [← hq]; omega
  · by_cases hb : k = 0 ∨ 2 ^ F.fracBits < sig
    · left
      intro n hn
      obtain ⟨m', hm'⟩ : ∃ m', k * 2 ^ F.fracBits + sig = m' + 1 := ⟨_, (Nat.succ_pred_eq_of_pos (by omega)).symm⟩
      have hs := F.quanta_succ m'
      have hmono := F.quanta_strictMono.monotone (show n ≤ m' by omega)
      have hstep : 2 ^ k ≤ 2 ^ (m' / 2 ^ F.fracBits - 1) := by
        apply Nat.pow_le_pow_right (by norm_num)
        rcases hb with rfl | hb
        · omega
        · have : k + 1 ≤ m' / 2 ^ F.fracBits := by
            rw [Nat.le_div_iff_mul_le hp, Nat.add_mul, Nat.one_mul]; omega
          omega
      rw [← hq, hm']; omega
    · right
      have : sig ≤ num / (den * 2 ^ k) := by omega
      calc sig * 2 ^ k * den = sig * (den * 2 ^ k) := by ring
        _ ≤ num / (den * 2 ^ k) * (den * 2 ^ k) := Nat.mul_le_mul_right _ this
        _ ≤ num := hdiv

/-- Infinity's pattern is even and not the first one. -/
theorem FloatFormat.infPattern_even (F : FloatFormat) (hf : 0 < F.fracBits) (he : 0 < F.expBits) :
    F.infPattern % 2 = 0 ∧ 0 < F.infPattern := by
  unfold FloatFormat.infPattern
  obtain ⟨j, hj⟩ : ∃ j, F.fracBits = j + 1 := ⟨F.fracBits - 1, by omega⟩
  have : 2 ^ 1 ≤ 2 ^ F.expBits := Nat.pow_le_pow_right (by norm_num) he
  constructor
  · rw [hj, Nat.pow_succ, ← Nat.mul_assoc, Nat.mul_mod_left]
  · exact Nat.mul_pos (by omega) (Nat.two_pow_pos _)

/-- A point at most half a step from `n` is no further from it than a point a whole step away, and as far only at half a
step. -/
theorem near_cases (a b n t : Nat) (h1 : 2 * a ≤ 2 * n + t) (h2 : 2 * n ≤ 2 * a + t)
    (hb : b + t ≤ a ∨ a + t ≤ b) :
    |((a : Nat) : Int) - n| ≤ |((b : Nat) : Int) - n| ∧
      (|((a : Nat) : Int) - n| = |((b : Nat) : Int) - n| → 2 * a = 2 * n + t ∨ 2 * n = 2 * a + t) := by
  rcases abs_cases (((a : Nat) : Int) - n) with ⟨e1, _⟩ | ⟨e1, _⟩ <;>
    rcases abs_cases (((b : Nat) : Int) - n) with ⟨e2, _⟩ | ⟨e2, _⟩ <;>
    rw [e1, e2] <;> omega

/-- A point not above `n` is nearer to it than any point below. -/
theorem near_below (a b n : Nat) (h1 : a ≤ n) (hb : b < a) : |((a : Nat) : Int) - n| < |((b : Nat) : Int) - n| := by
  rcases abs_cases (((a : Nat) : Int) - n) with ⟨e1, _⟩ | ⟨e1, _⟩ <;>
    rcases abs_cases (((b : Nat) : Int) - n) with ⟨e2, _⟩ | ⟨e2, _⟩ <;>
    rw [e1, e2] <;> omega

/-- Rounding to nearest gives the nearest magnitude, infinity from half way past the largest finite one. -/
theorem FloatFormat.roundMagnitude_nearest (F : FloatFormat) (hf : 0 < F.fracBits) (he : 0 < F.expBits) (neg : Bool)
    (num den : Nat) (hd : 0 < den) : NearestMagnitude F num den (F.roundMagnitude .nearest neg num den) := by
  obtain ⟨h1, h2, h3, hup, hdown⟩ := F.significand_spec hf neg num den hd
  obtain ⟨heven, hpos⟩ := F.infPattern_even hf he
  unfold NearestMagnitude FloatFormat.roundMagnitude
  dsimp only at *
  generalize F.dropped (num / den) = k at *
  generalize k * 2 ^ F.fracBits + roundQuotient .nearest neg num (den * 2 ^ k) = m at *
  generalize F.infPattern = inf at *
  have hmono := F.quanta_strictMono
  split
  · next hinf =>
    have hm : inf ≤ m := by
      by_contra hc
      have hu := hup inf (by omega)
      have hl : F.quanta m ≤ F.quanta (inf - 1) := hmono.monotone (by omega)
      have hA : (F.quanta m + 2 ^ k) * den ≤ F.quanta inf * den := Nat.mul_le_mul_right _ hu
      have hB : F.quanta m * den ≤ F.quanta (inf - 1) * den := Nat.mul_le_mul_right _ hl
      rw [Nat.add_mul] at hinf hA
      rw [Nat.mul_assoc] at h1 h2 h3
      have hEq : F.quanta m * den = F.quanta (inf - 1) * den := by omega
      have hTie := h3 (.inr (by omega))
      have : m = inf - 1 := hmono.injective (Nat.eq_of_mul_eq_mul_right hd hEq)
      omega
    omega
  · next hinf =>
    have hm : m < inf := by
      by_contra hc
      have hu : F.quanta inf ≤ F.quanta m := hmono.monotone (by omega)
      have hl : F.quanta (inf - 1) ≤ F.quanta inf := hmono.monotone (by omega)
      have hA : F.quanta inf * den ≤ F.quanta m * den := Nat.mul_le_mul_right _ hu
      have hB : F.quanta (inf - 1) * den ≤ F.quanta inf * den := Nat.mul_le_mul_right _ hl
      rw [Nat.add_mul] at hinf
      rw [Nat.mul_assoc] at h1
      rcases hdown with hdown | hdown
      · have hD := hdown (m - 1) (by omega)
        have hL : F.quanta (inf - 1) ≤ F.quanta (m - 1) := hmono.monotone (by omega)
        have hC : (F.quanta (inf - 1) + 2 ^ k) * den ≤ F.quanta m * den := Nat.mul_le_mul_right _ (by omega)
        rw [Nat.add_mul] at hC
        omega
      · omega
    rw [min_eq_left hm.le]
    refine ⟨hm, fun other ho => ?_⟩
    rw [Nat.mul_assoc] at h1 h2 h3
    rw [← Nat.cast_mul, ← Nat.cast_mul]
    have hnear := near_cases (F.quanta m * den) (F.quanta other * den) num (2 ^ k * den) h1 h2
    rcases Nat.lt_trichotomy other m with hlt | heq | hgt
    · rcases hdown with hdown | hdown
      · have hC : (F.quanta other + 2 ^ k) * den ≤ F.quanta m * den := Nat.mul_le_mul_right _ (hdown other hlt)
        rw [Nat.add_mul] at hC
        obtain ⟨ha, hb⟩ := hnear (.inl hC)
        exact ⟨ha, fun h _ => h3 (hb h)⟩
      · have hC : F.quanta other * den < F.quanta m * den := Nat.mul_lt_mul_of_pos_right (hmono hlt) hd
        have hn := near_below (F.quanta m * den) (F.quanta other * den) num hdown hC
        exact ⟨hn.le, fun h => absurd h hn.ne⟩
    · subst heq
      exact ⟨le_refl _, fun _ h => absurd rfl h⟩
    · have hC : (F.quanta m + 2 ^ k) * den ≤ F.quanta other * den := Nat.mul_le_mul_right _ (hup other hgt)
      rw [Nat.add_mul] at hC
      obtain ⟨ha, hb⟩ := hnear (.inr hC)
      exact ⟨ha, fun h _ => h3 (hb h)⟩

end Sys2Proof.Machine
end

