-- ==== Sys2Proof/Laws/Services.lean ====
section
/-! SUPPORT. The syscall services: the descriptor table's operations, and everything a service can do, said once. -/

namespace Sys2Proof.Machine

/-! ### The descriptor table -/

theorem FdTable.find_cons (e : Nat × FdAccess) (t : FdTable) (n : Nat) :
    FdTable.find (e :: t) n = if e.1 = n then some e.2 else FdTable.find t n := by
  unfold FdTable.find
  by_cases h : e.1 = n
  · rw [List.find?_cons_of_pos (by simp [h]), if_pos h]; rfl
  · rw [List.find?_cons_of_neg (by simp [h]), if_neg h]

/-- Adding a descriptor that is not in the table. -/
theorem FdTable.find_add (t : FdTable) (fd : Nat) (m : FdAccess) (h : FdTable.find t fd = none) (n : Nat) :
    FdTable.find (FdTable.add t fd m) n = if n = fd then some m else FdTable.find t n := by
  induction t with
  | nil =>
    rw [FdTable.add, FdTable.find_cons]
    simp only [eq_comm]
  | cons e t ih =>
    rw [FdTable.find_cons] at h
    have he : e.1 ≠ fd := fun c => by rw [if_pos c] at h; cases h
    rw [if_neg he] at h
    unfold FdTable.add
    split
    · rw [FdTable.find_cons]
      simp only [eq_comm]
    · rw [FdTable.find_cons, FdTable.find_cons, ih h]
      by_cases hn : e.1 = n
      · rw [if_pos hn, if_pos hn, if_neg (by omega)]
      · rw [if_neg hn, if_neg hn]

/-- Removing a descriptor. -/
theorem FdTable.find_drop (t : FdTable) (fd n : Nat) :
    FdTable.find (FdTable.drop t fd) n = if n = fd then none else FdTable.find t n := by
  induction t with
  | nil => simp [FdTable.drop, FdTable.find]
  | cons e t ih =>
    unfold FdTable.drop at ih ⊢
    rw [List.filter_cons]
    by_cases he : e.1 = fd
    · rw [if_neg (by simp [he]), ih, FdTable.find_cons]
      by_cases hn : n = fd
      · rw [if_pos hn, if_pos hn]
      · rw [if_neg hn, if_neg hn, if_neg (by omega)]
    · rw [if_pos (by simp [he]), FdTable.find_cons, FdTable.find_cons, ih]
      by_cases hn : e.1 = n
      · rw [if_pos hn, if_pos hn, if_neg (by omega)]
      · rw [if_neg hn, if_neg hn]

theorem FdTable.find_isSome_mem (t : FdTable) (n : Nat) (h : FdTable.find t n ≠ none) : n ∈ t.map (·.1) := by
  induction t with
  | nil => simp [FdTable.find] at h
  | cons e t ih =>
    rw [FdTable.find_cons] at h
    by_cases he : e.1 = n
    · simp [he]
    · rw [if_neg he] at h
      exact List.mem_cons_of_mem _ (ih h)

/-- Among the first `length + 1` numbers from 3 up one is free. -/
theorem FdTable.free_exists (t : FdTable) : ∃ k, k < t.length + 1 ∧ FdTable.find t (k + 3) = none := by
  by_contra hc
  push Not at hc
  have hsub : (List.range (t.length + 1)).map (· + 3) ⊆ t.map (·.1) := by
    intro x hx
    obtain ⟨k, hk, rfl⟩ := List.mem_map.mp hx
    exact FdTable.find_isSome_mem t _ (hc k (List.mem_range.mp hk))
  have hn : ((List.range (t.length + 1)).map (· + 3)).Nodup :=
    List.Nodup.map (fun a b h => by simpa using h) List.nodup_range
  have := (hn.subperm hsub).length_le
  simp at this

/-- The lowest free descriptor is free, at least 3, and no free one from 3 up is lower (46/R377). -/
theorem FdTable.lowestFree_spec (t : FdTable) :
    3 ≤ FdTable.lowestFree t ∧ FdTable.find t (FdTable.lowestFree t) = none ∧
      ∀ n, 3 ≤ n → FdTable.find t n = none → FdTable.lowestFree t ≤ n := by
  unfold FdTable.lowestFree
  obtain ⟨k, hk, hf⟩ := FdTable.free_exists t
  cases hr : (List.range (t.length + 1)).find? fun k => (FdTable.find t (k + 3)).isNone with
  | none =>
    have := List.find?_eq_none.mp hr k (List.mem_range.mpr hk)
    simp [hf] at this
  | some j =>
    have hj := List.find?_some hr
    simp only [Option.getD_some]
    refine ⟨by omega, by simpa using hj, fun n hn hfree => ?_⟩
    by_contra hc
    have hb := List.find?_range_eq_some.mp hr
    have := hb.2.2 (n - 3) (by omega)
    rw [show n - 3 + 3 = n by omega, hfree] at this
    simp at this

/-! ### What a service can do -/

/-- The service writes a buffer of at most `n` bytes at `a`: read_string and read name theirs in registers (46/R372,
R378). -/
def WritesBuffer (service : Service) (s : State) (a : Word) (n : Nat) : Prop :=
  service = .readString ∧ a = s.readX 4#5 ∧ n ≤ (s.readX 5#5).toNat ∨
    service = .readFile ∧ a = s.readX 5#5 ∧ n ≤ (s.readX 6#5).toNat

/-- The memory and the segment table after a service. -/
inductive ServiceMemory (service : Service) (s t : State) : Prop where
  /-- as before -/
  | kept (hm : t.mem = s.mem) (hs : t.segments = s.segments)
  /-- bytes written at a buffer, each access checked -/
  | buffer (a : Word) (bs : List Byte) (hw : WritesBuffer service s a bs.length)
      (ha : BufferAccessible s .write a bs.length)
      (hm : t.mem = writeAll s.mem a bs) (hs : t.segments = s.segments)
  /-- the heap grown by `n` bytes -/
  | grown (n : Nat) (hn : 0 < n) (hk : s.brk + n ≤ s.segments.stack.min) (ho : meetsOther s.segments s.brk n = false)
      (hm : t.mem = s.mem.clear s.brk (s.brk + n))
      (hs : t.segments = { s.segments with heap := { s.segments.heap with size := s.segments.heap.size + n } })

/-- The services that return no value (46/R362). -/
def returnsNothing : Service → Bool
  | .printInt => true
  | .printFloat => true
  | .printDouble => true
  | .printString => true
  | .readInt => false
  | .readFloat => false
  | .readDouble => false
  | .readString => true
  | .sbrk => false
  | .exit => true
  | .printChar => true
  | .readChar => false
  | .openFile => false
  | .readFile => false
  | .writeFile => false
  | .closeFile => false
  | .exit2 => true

/-- Everything a service can do to the state. -/
structure ServiceEffect (service : Service) (s t : State) : Prop where
  others : ∀ r, r ≠ 2#5 → t.readX r = s.readX r
  result : returnsNothing service = true → t.x = s.x
  v : t.v = s.v
  hi : t.hi = s.hi
  lo : t.lo = s.lo
  pc : t.pc = s.pc
  kernel : t.kernel = s.kernel
  memory : ServiceMemory service s t
  fds : t.fds = s.fds ∨ (∃ m, t.fds = FdTable.add s.fds (FdTable.lowestFree s.fds) m) ∨
    ∃ fd, 3 ≤ fd ∧ t.fds = FdTable.drop s.fds fd
  faulted : t.op = s.op ∨ t.op = .halted ∨ ∃ c, t.op = .faulted c ∧ (∀ kind a, c ≠ .segFault kind a .fetch) ∧
    t.x = s.x ∧ t.segments = s.segments ∧ t.fds = s.fds ∧ t.trace = s.trace ∧ t.exitCode = s.exitCode ∧
    (service ≠ .readString → service ≠ .readFile → t.mem = s.mem)

/-- The string of an answer fits before a zero byte and holds none (46/R372). -/
theorem length_typedString (a : HostAnswer) (n : Nat) : (typedString a n).length ≤ n - 1 := List.length_take_le _ _

theorem zero_not_mem_typedString (a : HostAnswer) (n : Nat) : 0#8 ∉ typedString a n := fun h => by
  have := List.of_mem_filter (List.mem_of_mem_take h)
  simp at this

/-- A service that at most writes its result register, appends events and asks the host. -/
theorem serviceEffect_quiet (service : Service) (s t : State) (hx : ∀ r, r ≠ 2#5 → t.readX r = s.readX r)
    (hr : returnsNothing service = true → t.x = s.x) (hv : t.v = s.v) (hh : t.hi = s.hi) (hl : t.lo = s.lo)
    (hp : t.pc = s.pc) (hk : t.kernel = s.kernel) (hm : t.mem = s.mem) (hs : t.segments = s.segments)
    (hf : t.fds = s.fds) (ho : t.op = s.op ∨ t.op = .halted) : ServiceEffect service s t :=
  ⟨hx, hr, hv, hh, hl, hp, hk, .kept hm hs, .inl hf, ho.elim .inl fun h => .inr (.inl h)⟩

theorem readX_answer_other (s : State) (w : Word) (r : RegNum) (h : r ≠ 2#5) : (s.answer w).readX r = s.readX r :=
  s.readX_writeX_other 2#5 w r h

/-- A service that reports its result and nothing else. -/
theorem serviceEffect_answer (service : Service) (hn : returnsNothing service = false) (s : State) (w : Word) :
    ServiceEffect service s (s.answer w) :=
  serviceEffect_quiet service s _ (fun r h => readX_answer_other s w r h) (by simp [hn]) rfl rfl rfl rfl rfl rfl rfl rfl
    (.inl rfl)

theorem serviceEffect_asked_answer (service : Service) (hn : returnsNothing service = false) (s : State) (w : Word) :
    ServiceEffect service s (s.asked.answer w) :=
  serviceEffect_quiet service s _ (fun r h => readX_answer_other s.asked w r h) (by simp [hn]) rfl rfl rfl rfl rfl rfl rfl
    rfl (.inl rfl)

/-- A service that raises a condition with nothing written. -/
theorem serviceEffect_raise (service : Service) (s : State) (c : Condition)
    (h : ∀ kind a, c ≠ .segFault kind a .fetch) : ServiceEffect service s (s.raise c) :=
  ⟨fun _ _ => rfl, fun _ => rfl, rfl, rfl, rfl, rfl, rfl, .kept rfl rfl, .inl rfl,
    .inr (.inr ⟨c, rfl, h, rfl, rfl, rfl, rfl, rfl, fun _ _ => rfl⟩)⟩

/-- A string service: what its use of the string does, or a condition. -/
theorem serviceEffect_withString (service : Service) (s t : State) (a : Word) (use : List Byte → State)
    (hu : ∀ bs, ServiceEffect service s (use bs)) (h : withString s a use = .next t) : ServiceEffect service s t := by
  rcases withString_cases s t a use h with ⟨bs, _, rfl⟩ | ⟨kind, b, rfl⟩
  · exact hu bs
  · exact serviceEffect_raise service s _ (by simp)

/-- A buffer that is written after the host was asked, and what follows where that goes well. -/
theorem serviceEffect_write (service : Service) (s : State) (a : Word) (bs : List Byte)
    (hw : WritesBuffer service s a bs.length) (after : State → State)
    (hok : BufferAccessible s .write a bs.length →
      ServiceEffect service s (after { s.asked with mem := writeAll s.mem a bs })) :
    ServiceEffect service s (match s.asked.writeBuffer a bs with | .error t => t | .ok t => after t) := by
  rcases writeBuffer_cases bs s.asked a with h | ⟨j, c, hj, hs⟩
  · rw [writeBuffer_ok bs s.asked a h]
    exact hok (h.congr rfl)
  · rw [writeBuffer_error c bs s.asked a j hj hs]
    obtain ⟨kind, rfl⟩ := accessFault_eq hs.2
    have hb : BufferAccessible s .write a (bs.take j).length := by
      rw [List.length_take_of_le (by omega)]; exact hs.1.congr rfl
    have hw' : WritesBuffer service s a (bs.take j).length := by
      rw [List.length_take_of_le (by omega)]
      exact hw.imp (fun h => ⟨h.1, h.2.1, by omega⟩) fun h => ⟨h.1, h.2.1, by omega⟩
    exact ⟨fun _ _ => rfl, fun _ => rfl, rfl, rfl, rfl, rfl, rfl, .buffer a (bs.take j) hw' hb rfl rfl, .inl rfl,
      .inr (.inr ⟨_, rfl, by simp, rfl, rfl, rfl, rfl, rfl,
        fun h1 h2 => absurd hw (by simp [WritesBuffer, h1, h2])⟩)⟩

/-- Everything a service can do. -/
theorem service_effect (service : Service) (s t : State) (h : runService service s = .next t) :
    ServiceEffect service s t := by
  cases service with
  | printString =>
    exact serviceEffect_withString _ s t _ (fun bs => s.emit (.printString bs)) (fun bs => serviceEffect_quiet _ s _ (fun _ _ => rfl) (fun _ => rfl) rfl rfl rfl
      rfl rfl rfl rfl rfl (.inl rfl)) h
  | readString =>
    cases h
    unfold serviceReadString
    dsimp only
    split
    · exact serviceEffect_quiet _ s _ (fun _ _ => rfl) (fun _ => rfl) rfl rfl rfl rfl rfl rfl rfl rfl (.inl rfl)
    · next hn =>
      have hw : WritesBuffer .readString s (s.arg 0)
          (typedString s.hostAnswer (s.arg 1).toNat ++ [0#8]).length := by
        refine .inl ⟨rfl, rfl, ?_⟩
        have := length_typedString s.hostAnswer (s.arg 1).toNat
        rw [List.length_append, List.length_singleton]
        show _ ≤ (s.arg 1).toNat
        omega
      exact serviceEffect_write _ s _ _ hw (fun t => t) fun hb =>
        ⟨fun _ _ => rfl, fun _ => rfl, rfl, rfl, rfl, rfl, rfl, .buffer _ _ hw hb rfl rfl, .inl rfl, .inl rfl⟩
  | sbrk =>
    cases h
    unfold serviceSbrk
    dsimp only
    split
    · exact serviceEffect_answer _ rfl s _
    · next h0 =>
      split
      · exact serviceEffect_answer _ rfl s _
      · split
        · exact serviceEffect_answer _ rfl s _
        · next hc =>
          simp only [Bool.or_eq_true, decide_eq_true_eq, not_or, Bool.not_eq_true, Nat.not_lt] at hc
          refine ⟨fun r hr => readX_answer_other _ _ r hr, by simp [returnsNothing], rfl, rfl, rfl, rfl, rfl,
            .grown (s.arg 0).toNat ?_ hc.1 hc.2 rfl ?_, .inl rfl, .inl rfl⟩
          · exact Nat.pos_of_ne_zero fun e => h0 (BitVec.eq_of_toNat_eq e)
          · show SegmentMap.mk _ _ _ _ _ _ = _
            have hs : s.brk + (s.arg 0).toNat - s.segments.heap.min = s.segments.heap.size + (s.arg 0).toNat := by
              unfold State.brk Segment.limit
              omega
            rw [hs]
  | openFile =>
    refine serviceEffect_withString _ s t _ _ (fun path => ?_) h
    unfold openPath
    dsimp only
    split
    · exact serviceEffect_quiet _ s _ (fun r hr => readX_answer_other _ _ r hr) (by simp [returnsNothing]) rfl rfl rfl rfl
        rfl rfl rfl rfl (.inl rfl)
    · split
      · exact ⟨fun r hr => readX_answer_other _ _ r hr, by simp [returnsNothing], rfl, rfl, rfl, rfl, rfl, .kept rfl rfl,
          .inr (.inl ⟨_, rfl⟩), .inl rfl⟩
      · exact serviceEffect_quiet _ s _ (fun r hr => readX_answer_other _ _ r hr) (by simp [returnsNothing]) rfl rfl rfl
          rfl rfl rfl rfl rfl (.inl rfl)
  | readFile =>
    cases h
    unfold serviceRead
    split
    · exact serviceEffect_answer _ rfl s _
    · split
      · split
        · have hw : WritesBuffer .readFile s (s.arg 1) (s.hostAnswer.bytes.take (s.arg 2).toNat).length :=
            .inr ⟨rfl, rfl, List.length_take_le _ _⟩
          refine serviceEffect_write _ s _ _ hw (fun t => t.answer _) fun hb => ?_
          exact ⟨fun r hr => readX_answer_other _ _ r hr, by simp [returnsNothing], rfl, rfl, rfl, rfl, rfl,
            .buffer _ _ hw hb rfl rfl, .inl rfl, .inl rfl⟩
        · exact serviceEffect_asked_answer _ rfl s _
      · exact serviceEffect_answer _ rfl s _
  | writeFile =>
    cases h
    unfold serviceWrite
    dsimp only
    split
    · exact serviceEffect_answer _ rfl s _
    · split
      · split
        · next hr =>
          obtain ⟨kind, b, rfl⟩ := readBuffer_condition s _ _ _ hr
          exact serviceEffect_raise _ s _ (by simp)
        · split
          · exact serviceEffect_quiet _ s _ (fun r hr => readX_answer_other _ _ r hr) (by simp [returnsNothing]) rfl rfl rfl
              rfl rfl rfl rfl rfl (.inl rfl)
          · split
            · exact serviceEffect_quiet _ s _ (fun r hr => readX_answer_other _ _ r hr) (by simp [returnsNothing]) rfl rfl
                rfl rfl rfl rfl rfl rfl (.inl rfl)
            · exact serviceEffect_asked_answer _ rfl s _
      · exact serviceEffect_answer _ rfl s _
  | closeFile =>
    cases h
    unfold serviceClose
    dsimp only
    split
    · next hc =>
      simp only [Bool.and_eq_true, decide_eq_true_eq] at hc
      exact ⟨fun r hr => readX_answer_other _ _ r hr, by simp [returnsNothing], rfl, rfl, rfl, rfl, rfl, .kept rfl rfl,
        .inr (.inr ⟨_, hc.1, rfl⟩), .inl rfl⟩
    · exact serviceEffect_answer _ rfl s _
  | exit =>
    cases h
    exact serviceEffect_quiet _ s _ (fun _ _ => rfl) (fun _ => rfl) rfl rfl rfl rfl rfl rfl rfl rfl (.inr rfl)
  | exit2 =>
    cases h
    exact serviceEffect_quiet _ s _ (fun _ _ => rfl) (fun _ => rfl) rfl rfl rfl rfl rfl rfl rfl rfl (.inr rfl)
  | printInt =>
    cases h
    exact serviceEffect_quiet _ s _ (fun _ _ => rfl) (fun _ => rfl) rfl rfl rfl rfl rfl rfl rfl rfl (.inl rfl)
  | printFloat =>
    cases h
    exact serviceEffect_quiet _ s _ (fun _ _ => rfl) (fun _ => rfl) rfl rfl rfl rfl rfl rfl rfl rfl (.inl rfl)
  | printDouble =>
    cases h
    exact serviceEffect_quiet _ s _ (fun _ _ => rfl) (fun _ => rfl) rfl rfl rfl rfl rfl rfl rfl rfl (.inl rfl)
  | printChar =>
    cases h
    exact serviceEffect_quiet _ s _ (fun _ _ => rfl) (fun _ => rfl) rfl rfl rfl rfl rfl rfl rfl rfl (.inl rfl)
  | readInt => cases h; exact serviceEffect_asked_answer _ rfl s _
  | readFloat => cases h; exact serviceEffect_asked_answer _ rfl s _
  | readDouble => cases h; exact serviceEffect_asked_answer _ rfl s _
  | readChar => cases h; exact serviceEffect_asked_answer _ rfl s _

/-- Everything `syscall` can do: `BadSyscall`, or a service. -/
theorem syscall_cases (s t : State) (h : execSyscall s = .next t) :
    (serviceOfNumber (s.readX 2#5) = none ∧ t = s.raise (.badSyscall (s.readX 2#5))) ∨
    ∃ service, serviceOfNumber (s.readX 2#5) = some service ∧ ServiceEffect service s t := by
  unfold execSyscall at h
  dsimp only at h
  split at h
  · next hn => cases h; exact .inl ⟨hn, rfl⟩
  · next service hn => exact .inr ⟨service, hn, service_effect service s t h⟩

end Sys2Proof.Machine
end

