-- ==== Sys2Proof/Tests/Slice0.lean ====
section
/-! SUPPORT. The model's own tests: the words of the spec's examples, one ill-formed term for each check, the spec's test
vectors, and for every statement with hypotheses a state that meets them. -/

namespace Sys2Proof.Tests

-- One theorem at a time: many kernel evaluations waiting at once would each hold a thread.
set_option Elab.async false

open Sys2Proof.Machine

/-! ### Decoding: each word stands beside its assembly in the rule of the instruction (its "Example") -/

/-- J format: 43/R260, R261, R264, 46/R360. -/
theorem test_decode_jump :
    ∀ p ∈ ([
      (0x00000000#32, .nop 0),
      (0x02000000#32, .syscall 0),
      (0x04100004#32, .j 0x100004),
      (0x06100004#32, .jal 0x100004)] : List (InstrWord × Instr)), decode p.1 = .ok p.2 := by
  decide +kernel

/-- Opcode 0x08: 40, 42, 43. -/
theorem test_decode_scalar_register :
    ∀ p ∈ ([
      (0x10A5B000#32, .add 10 11 12),
      (0x10A5B001#32, .sub 10 11 12),
      (0x10A5B002#32, .addw 10 11 12),
      (0x10A5B003#32, .subw 10 11 12),
      (0x10A58004#32, .mult 10 11 0),
      (0x10A58005#32, .multu 10 11 0),
      (0x10A58006#32, .multw 10 11 0),
      (0x10A58007#32, .multuw 10 11 0),
      (0x10A58008#32, .div 10 11 0),
      (0x10A58009#32, .divu 10 11 0),
      (0x10A5800A#32, .divw 10 11 0),
      (0x10A5800B#32, .divuw 10 11 0),
      (0x1000300C#32, .mfhi 0 0 12),
      (0x1000300D#32, .mflo 0 0 12),
      (0x10A0000E#32, .mthi 10 0 0),
      (0x10A0000F#32, .mtlo 10 0 0),
      (0x10A5B010#32, .and 10 11 12),
      (0x10A5B011#32, .or 10 11 12),
      (0x10A5B012#32, .xor 10 11 12),
      (0x10A5B013#32, .nor 10 11 12),
      (0x10A5B014#32, .sll 10 11 12),
      (0x10A5B015#32, .srl 10 11 12),
      (0x10A5B016#32, .sra 10 11 12),
      (0x10A5B017#32, .sllw 10 11 12),
      (0x10A5B018#32, .srlw 10 11 12),
      (0x10A5B019#32, .sraw 10 11 12),
      (0x10A5B01A#32, .slt 10 11 12),
      (0x10A5B01B#32, .sltu 10 11 12),
      (0x11F00020#32, .jr 31 0 0),
      (0x10A00021#32, .jalr 10 0 0),
      (0x10A5B030#32, .lbx 10 11 12),
      (0x10A5B031#32, .lbux 10 11 12),
      (0x10A5B032#32, .lhx 10 11 12),
      (0x10A5B033#32, .lhux 10 11 12),
      (0x10A5B034#32, .lwx 10 11 12),
      (0x10A5B035#32, .lwux 10 11 12),
      (0x10A5B036#32, .ldx 10 11 12),
      (0x10A5B038#32, .sbx 10 11 12),
      (0x10A5B039#32, .shx 10 11 12),
      (0x10A5B03A#32, .swx 10 11 12),
      (0x10A5B03B#32, .sdx 10 11 12)] : List (InstrWord × Instr)), decode p.1 = .ok p.2 := by
  decide +kernel

/-- Opcode 0x09, func below 0x30: 44. -/
theorem test_decode_vector_arithmetic :
    ∀ p ∈ ([
      (0x12110C00#32, .vaddi32 1 2 3),
      (0x12110C01#32, .vaddi64 1 2 3),
      (0x12110C02#32, .vaddf32 1 2 3),
      (0x12110C03#32, .vaddf64 1 2 3),
      (0x12110C04#32, .vsubi32 1 2 3),
      (0x12110C05#32, .vsubi64 1 2 3),
      (0x12110C06#32, .vsubf32 1 2 3),
      (0x12110C07#32, .vsubf64 1 2 3),
      (0x12110C08#32, .vmuli32 1 2 3),
      (0x12110C09#32, .vmuli64 1 2 3),
      (0x12110C0A#32, .vmulf32 1 2 3),
      (0x12110C0B#32, .vmulf64 1 2 3),
      (0x12110C0C#32, .vdivi32 1 2 3),
      (0x12110C0D#32, .vdivi64 1 2 3),
      (0x12110C0E#32, .vdivf32 1 2 3),
      (0x12110C0F#32, .vdivf64 1 2 3),
      (0x12110C10#32, .vand 1 2 3),
      (0x12110C11#32, .vor 1 2 3),
      (0x12110C12#32, .vxor 1 2 3),
      (0x12110C13#32, .vnor 1 2 3),
      (0x12150C20#32, .vsll32 1 10 3),
      (0x12150C21#32, .vsll64 1 10 3),
      (0x12150C22#32, .vsrl32 1 10 3),
      (0x12150C23#32, .vsrl64 1 10 3),
      (0x12150C24#32, .vsra32 1 10 3),
      (0x12150C25#32, .vsra64 1 10 3),
      (0x12110C28#32, .vsllv32 1 2 3),
      (0x12110C29#32, .vsllv64 1 2 3),
      (0x12110C2A#32, .vsrlv32 1 2 3),
      (0x12110C2B#32, .vsrlv64 1 2 3),
      (0x12110C2C#32, .vsrav32 1 2 3),
      (0x12110C2D#32, .vsrav64 1 2 3)] : List (InstrWord × Instr)), decode p.1 = .ok p.2 := by
  decide +kernel

/-- Opcode 0x09, func from 0x30: 45. -/
theorem test_decode_vector_other :
    ∀ p ∈ ([
      (0x12110C30#32, .vseqi32 1 2 3),
      (0x12110C31#32, .vseqi64 1 2 3),
      (0x12110C32#32, .vseqf32 1 2 3),
      (0x12110C33#32, .vseqf64 1 2 3),
      (0x12110C34#32, .vslti32 1 2 3),
      (0x12110C35#32, .vslti64 1 2 3),
      (0x12110C36#32, .vsltf32 1 2 3),
      (0x12110C37#32, .vsltf64 1 2 3),
      (0x12150C40#32, .vcvti32f32 1 10 3),
      (0x12150C41#32, .vcvti64f64 1 10 3),
      (0x12150C42#32, .vcvtf32i32 1 10 3),
      (0x12150C43#32, .vcvtf64i64 1 10 3),
      (0x12102848#32, .vsumi32 1 0 10),
      (0x12102849#32, .vsumi64 1 0 10),
      (0x1210284A#32, .vsumf32 1 0 10),
      (0x1210284B#32, .vsumf64 1 0 10),
      (0x12102850#32, .vmsb32 1 0 10),
      (0x12102851#32, .vmsb64 1 0 10),
      (0x12102852#32, .vlsb32 1 0 10),
      (0x12102853#32, .vlsb64 1 0 10),
      (0x12150C58#32, .vshuf32 1 10 3),
      (0x12150C59#32, .vshuf64 1 10 3)] : List (InstrWord × Instr)), decode p.1 = .ok p.2 := by
  decide +kernel

/-- I format below 0x28: 41. -/
theorem test_decode_immediate :
    ∀ p ∈ ([
      (0x20A5FFFF#32, .addi 10 11 0x7FFF),
      (0x22A5FFFF#32, .addiu 10 11 0x7FFF),
      (0x24A5FFFF#32, .addwi 10 11 0x7FFF),
      (0x26A5FFFF#32, .addwiu 10 11 0x7FFF),
      (0x28A5FFF0#32, .andi 10 11 0x7FF0),
      (0x2AA5FFF0#32, .andiu 10 11 0x7FF0),
      (0x2CA5FFF0#32, .ori 10 11 0x7FF0),
      (0x2EA5FFF0#32, .oriu 10 11 0x7FF0),
      (0x30A5FFFF#32, .xori 10 11 0x7FFF),
      (0x32A5FFFF#32, .xoriu 10 11 0x7FFF),
      (0x34A5FFFF#32, .slti 10 11 0x7FFF),
      (0x36A5FFFF#32, .sltiu 10 11 0x7FFF),
      (0x38A58004#32, .slli 10 11 4),
      (0x3AA58004#32, .srli 10 11 4),
      (0x3CA58004#32, .srai 10 11 4),
      (0x3EA58004#32, .sllwi 10 11 4),
      (0x40A58004#32, .srlwi 10 11 4),
      (0x42A58004#32, .srawi 10 11 4)] : List (InstrWord × Instr)), decode p.1 = .ok p.2 := by
  decide +kernel

/-- I format from 0x28: 42, 43, 45. -/
theorem test_decode_memory_and_branch :
    ∀ p ∈ ([
      (0x50A5FFFC#32, .lb 10 11 0x7FFC),
      (0x52A5FFFC#32, .lbu 10 11 0x7FFC),
      (0x54A58006#32, .lh 10 11 6),
      (0x56A58006#32, .lhu 10 11 6),
      (0x58A58008#32, .lw 10 11 8),
      (0x5AA58008#32, .lwu 10 11 8),
      (0x5CA58010#32, .ld 10 11 16),
      (0x60A5FFFC#32, .sb 10 11 0x7FFC),
      (0x62A58006#32, .sh 10 11 6),
      (0x64A58008#32, .sw 10 11 8),
      (0x66A58010#32, .sd 10 11 16),
      (0x68A08020#32, .vld 10 1 0x20),
      (0x6AA08020#32, .vst 10 1 0x20),
      (0x70A58003#32, .beq 10 11 3),
      (0x72A5FFFE#32, .bne 10 11 0x7FFE),
      (0x74A58003#32, .blt 10 11 3),
      (0x76A58003#32, .bge 10 11 3),
      (0x78A58003#32, .bltu 10 11 3),
      (0x7AA58003#32, .bgeu 10 11 3)] : List (InstrWord × Instr)), decode p.1 = .ok p.2 := by
  decide +kernel

/-- EI format: 41/R201 to R204. -/
theorem test_decode_slice :
    ∀ p ∈ ([
      (0x80A01234#32, .li0 10 0x1234),
      (0x80A11234#32, .li1 10 0x1234),
      (0x80A21234#32, .li2 10 0x1234),
      (0x80A31234#32, .li3 10 0x1234)] : List (InstrWord × Instr)), decode p.1 = .ok p.2 := by
  decide +kernel

/-- 30/R116: opcodes and funcs outside the table. -/
theorem test_decode_illegal :
    decode 0x08000000#32 = .error .unknownOpcode ∧ decode 0x14000000#32 = .error .unknownOpcode ∧
    decode 0xFFFFFFFF#32 = .error .unknownOpcode ∧ decode 0x1000001C#32 = .error .unknownFunc ∧
    decode 0x12000014#32 = .error .unknownFunc ∧ decode 0x80040000#32 = .error .unknownFunc := by
  decide +kernel

/-! ### Well-formed instructions: every check refuses a term whose ignored field is not 0 (30/R107) -/

theorem test_ill_formed_jump : Instr.wf (.nop 1) = false ∧ Instr.wf (.syscall 1) = false := by
  decide

theorem test_ill_formed_multiply_divide :
    Instr.wf (.mult 1 2 3) = false ∧ Instr.wf (.multu 1 2 3) = false ∧ Instr.wf (.multw 1 2 3) = false ∧
    Instr.wf (.multuw 1 2 3) = false ∧ Instr.wf (.div 1 2 3) = false ∧ Instr.wf (.divu 1 2 3) = false ∧
    Instr.wf (.divw 1 2 3) = false ∧ Instr.wf (.divuw 1 2 3) = false := by
  decide

theorem test_ill_formed_moves_and_jumps :
    Instr.wf (.mfhi 1 0 3) = false ∧ Instr.wf (.mfhi 0 1 3) = false ∧ Instr.wf (.mflo 1 0 3) = false ∧
    Instr.wf (.mflo 0 1 3) = false ∧ Instr.wf (.mthi 3 1 0) = false ∧ Instr.wf (.mthi 3 0 1) = false ∧
    Instr.wf (.mtlo 3 1 0) = false ∧ Instr.wf (.mtlo 3 0 1) = false ∧ Instr.wf (.jr 3 1 0) = false ∧
    Instr.wf (.jr 3 0 1) = false ∧ Instr.wf (.jalr 3 1 0) = false ∧ Instr.wf (.jalr 3 0 1) = false := by
  decide

theorem test_ill_formed_reductions :
    Instr.wf (.vsumi32 1 2 3) = false ∧ Instr.wf (.vsumi64 1 2 3) = false ∧ Instr.wf (.vsumf32 1 2 3) = false ∧
    Instr.wf (.vsumf64 1 2 3) = false ∧ Instr.wf (.vmsb32 1 2 3) = false ∧ Instr.wf (.vmsb64 1 2 3) = false ∧
    Instr.wf (.vlsb32 1 2 3) = false ∧ Instr.wf (.vlsb64 1 2 3) = false := by
  decide

/-! ### Small machines -/

/-- The state an outcome holds. -/
def stateAfter (o : Result) : State :=
  match o with
  | .next t => t
  | .fault _ => State.reset
  | .refused _ => State.reset

/-- The outcome is a next state. -/
def isNext (o : Result) : Bool :=
  match o with
  | .next _ => true
  | .fault _ => false
  | .refused _ => false

theorem eq_next (o : Result) (h : isNext o = true) : o = .next (stateAfter o) := by
  cases o <;> simp_all [isNext, stateAfter]

/-- An executable with these words of text and these bytes of data, and one word of each kernel segment. -/
def image (ws : List InstrWord) (d : List Byte) : Executable :=
  { Executable.empty with
    ktextBase := 0x20000000
    text := ⟨(ws.map bytesOfWord).flatten, 4 * ws.length⟩
    data := ⟨d, d.length⟩
    ktext := ⟨[1, 0, 0, 0], 4⟩
    kdata := ⟨[2], 4⟩ }

/-- The same without the kernel segments, as the spec's test vectors have it. -/
def userImage (ws : List InstrWord) (d : List Byte) : Executable :=
  { image ws d with ktext := ⟨[], 0⟩, kdata := ⟨[], 0⟩ }

/-- The machine of section 2.3 of the spec's vectors: 32 bytes of data, 80 to 87 and 08 to 0F and zeros. -/
def vectorData : List Byte :=
  [0x80, 0x81, 0x82, 0x83, 0x84, 0x85, 0x86, 0x87, 0x08, 0x09, 0x0A, 0x0B, 0x0C, 0x0D, 0x0E, 0x0F] ++ List.replicate 16 0

def machine (i : Executable) : State := State.load i 0x200000 0 []

def scalarStart (w : InstrWord) (a b c : Word) : State :=
  { (((machine (userImage [w] vectorData)).writeX 10 a).writeX 11 b).writeX 12 c with hi := 77, lo := 78 }

def scalarRun (w : InstrWord) (a b c : Word) : State := stateAfter (step (scalarStart w a b c))

def lanesOf (w : Nat) (l : List Nat) : VWord := ofLanes w fun k => BitVec.ofNat w (l.getD k 0)

def vectorStart (w : InstrWord) (a b : VWord) (x : Word) : State :=
  (((scalarStart w x 0 0).writeV 1 a).writeV 2 b).writeV 3 5

def vectorRun (w : InstrWord) (a b : VWord) (x : Word) : State := stateAfter (step (vectorStart w a b x))

/-- The instruction at 0x400010 of a 32-byte text segment. -/
def controlRun (w : InstrWord) (a b : Word) : State :=
  stateAfter (step ((((machine (userImage [0, 0, 0, 0, w, 0, 0, 0] [])).writeX 10 a).writeX 11 b).setPc 0x400010))

/-- `syscall` with its number, three arguments, four bytes of data, and one answer of the host lined up. -/
def serviceStart (n a b c : Word) : State :=
  { ((((machine (userImage [0x02000000] [0x48, 0x69, 0x0A, 0x21])).writeX 2 n).writeX 4 a).writeX 5 b).writeX 6 c with
    hostInput := [⟨0x40200000, [0x41, 0x42], true, true⟩] }

def serviceRun (n a b c : Word) : State := stateAfter (step (serviceStart n a b c))

/-! ### One step each: the spec's test vectors -/

/-- 95 section 2.1. -/
theorem test_scalar_arithmetic :
    (scalarRun 0x10A5B000 0x7FFFFFFFFFFFFFFF 1 0).readX 12 = 0x8000000000000000 ∧
    (scalarRun 0x10A5B000 0xFFFFFFFFFFFFFFFF 1 0).readX 12 = 0 ∧
    (scalarRun 0x10A5B001 0 1 0).readX 12 = 0xFFFFFFFFFFFFFFFF ∧
    (scalarRun 0x10A5B001 0x8000000000000000 1 0).readX 12 = 0x7FFFFFFFFFFFFFFF ∧
    (scalarRun 0x10A5B002 0x7FFFFFFF 1 0).readX 12 = 0xFFFFFFFF80000000 ∧
    (scalarRun 0x10A5B002 0x1FFFFFFFF 1 0).readX 12 = 0 ∧
    (scalarRun 0x10A5B003 0x100000000 1 0).readX 12 = 0xFFFFFFFFFFFFFFFF ∧
    (scalarRun 0x10A5B010 0xFF00FF00FF00FF00 0xFF00FF00FF00FF0 0).readX 12 = 0xF000F000F000F00 ∧
    (scalarRun 0x10A5B011 0xFF00FF00FF00FF00 0xFF00FF00FF00FF0 0).readX 12 = 0xFFF0FFF0FFF0FFF0 ∧
    (scalarRun 0x10A5B012 0xFF00FF00FF00FF00 0xFF00FF00FF00FF0 0).readX 12 = 0xF0F0F0F0F0F0F0F0 ∧
    (scalarRun 0x10A5B013 0xFF00FF00FF00FF00 0xFF00FF00FF00FF0 0).readX 12 = 0xF000F000F000F ∧
    (scalarRun 0x10A5B01A 0xFFFFFFFFFFFFFFFF 0 0).readX 12 = 1 ∧
    (scalarRun 0x10A5B01B 0xFFFFFFFFFFFFFFFF 0 0).readX 12 = 0 ∧
    (scalarRun 0x10A5B01A 0x8000000000000000 0x7FFFFFFFFFFFFFFF 0).readX 12 = 1 ∧
    (scalarRun 0x10A5B01B 0 1 0).readX 12 = 1 := by
  decide +kernel

/-- 95 section 2.1. -/
theorem test_scalar_shifts :
    (scalarRun 0x10A5B014 1 63 0).readX 12 = 0x8000000000000000 ∧
    (scalarRun 0x10A5B014 1 64 0).readX 12 = 1 ∧
    (scalarRun 0x10A5B015 0x8000000000000000 63 0).readX 12 = 1 ∧
    (scalarRun 0x10A5B016 0x8000000000000000 63 0).readX 12 = 0xFFFFFFFFFFFFFFFF ∧
    (scalarRun 0x10A5B016 0x8000000000000000 64 0).readX 12 = 0x8000000000000000 ∧
    (scalarRun 0x10A5B017 1 31 0).readX 12 = 0xFFFFFFFF80000000 ∧
    (scalarRun 0x10A5B017 1 32 0).readX 12 = 1 ∧
    (scalarRun 0x10A5B018 0x80000000 31 0).readX 12 = 1 ∧
    (scalarRun 0x10A5B018 0xFFFFFFFF80000000 0 0).readX 12 = 0xFFFFFFFF80000000 ∧
    (scalarRun 0x10A5B019 0x80000000 31 0).readX 12 = 0xFFFFFFFFFFFFFFFF ∧
    (scalarRun 0x10A5B019 0x180000000 4 0).readX 12 = 0xFFFFFFFFF8000000 := by
  decide +kernel

/-- 95 section 2.1. -/
theorem test_multiply_divide :
    (let s := scalarRun 0x10A58004 0xFFFFFFFFFFFFFFFF 0xFFFFFFFFFFFFFFFF 0;
      s.hi = 0 ∧ s.lo = 1 ∧ s.op = .ready) ∧
    (let s := scalarRun 0x10A58004 0x8000000000000000 2 0;
      s.hi = 0xFFFFFFFFFFFFFFFF ∧ s.lo = 0 ∧ s.op = .ready) ∧
    (let s := scalarRun 0x10A58005 0xFFFFFFFFFFFFFFFF 0xFFFFFFFFFFFFFFFF 0;
      s.hi = 0xFFFFFFFFFFFFFFFE ∧ s.lo = 1 ∧ s.op = .ready) ∧
    (let s := scalarRun 0x10A58006 0xFFFFFFFF 0xFFFFFFFF 0;
      s.hi = 0 ∧ s.lo = 1 ∧ s.op = .ready) ∧
    (let s := scalarRun 0x10A58007 0xFFFFFFFF 0xFFFFFFFF 0;
      s.hi = 0xFFFFFFFFFFFFFFFE ∧ s.lo = 1 ∧ s.op = .ready) ∧
    (let s := scalarRun 0x10A58006 0x80000000 0x80000000 0;
      s.hi = 0x40000000 ∧ s.lo = 0 ∧ s.op = .ready) ∧
    (let s := scalarRun 0x10A58008 7 2 0;
      s.hi = 1 ∧ s.lo = 3 ∧ s.op = .ready) ∧
    (let s := scalarRun 0x10A58008 0xFFFFFFFFFFFFFFF9 2 0;
      s.hi = 0xFFFFFFFFFFFFFFFF ∧ s.lo = 0xFFFFFFFFFFFFFFFD ∧ s.op = .ready) ∧
    (let s := scalarRun 0x10A58009 0xFFFFFFFFFFFFFFFF 2 0;
      s.hi = 1 ∧ s.lo = 0x7FFFFFFFFFFFFFFF ∧ s.op = .ready) ∧
    (let s := scalarRun 0x10A58009 7 0 0;
      s.hi = 77 ∧ s.lo = 78 ∧ s.pc = 0x400004 ∧ s.op = .faulted (.arithFault 0x10A58009)) ∧
    (let s := scalarRun 0x10A5800A 0xFFFFFFF9 2 0;
      s.hi = 0xFFFFFFFFFFFFFFFF ∧ s.lo = 0xFFFFFFFFFFFFFFFD ∧ s.op = .ready) ∧
    (let s := scalarRun 0x10A5800A 0x80000000 0xFFFFFFFF 0;
      s.hi = 77 ∧ s.lo = 78 ∧ s.pc = 0x400004 ∧ s.op = .faulted (.arithFault 0x10A5800A)) ∧
    (let s := scalarRun 0x10A5800B 0xFFFFFFF9 2 0;
      s.hi = 1 ∧ s.lo = 0x7FFFFFFC ∧ s.op = .ready) ∧
    (let s := scalarRun 0x10A5800B 5 0x100000000 0;
      s.hi = 77 ∧ s.lo = 78 ∧ s.pc = 0x400004 ∧ s.op = .faulted (.arithFault 0x10A5800B)) := by
  decide +kernel

/-- 95 section 2.2. -/
theorem test_scalar_immediates :
    (scalarRun 0x20A5FFFF 5 0 0).readX 11 = 4 ∧
    (scalarRun 0x20A5C000 0 0 0).readX 11 = 0xFFFFFFFFFFFFC000 ∧
    (scalarRun 0x22A5FFFF 5 0 0).readX 11 = 0x8004 ∧
    (scalarRun 0x22A5C000 0 0 0).readX 11 = 0x4000 ∧
    (scalarRun 0x24A58001 0x7FFFFFFF 0 0).readX 11 = 0xFFFFFFFF80000000 ∧
    (scalarRun 0x26A5FFFF 0xFFFFFFFF 0 0).readX 11 = 0x7FFE ∧
    (scalarRun 0x28A5FFFE 0xFFFFFFFFFFFFFFFF 0 0).readX 11 = 0xFFFFFFFFFFFFFFFE ∧
    (scalarRun 0x2AA5FFFE 0xFFFFFFFFFFFFFFFF 0 0).readX 11 = 0x7FFE ∧
    (scalarRun 0x2CA5FFFF 0 0 0).readX 11 = 0xFFFFFFFFFFFFFFFF ∧
    (scalarRun 0x2EA5FFFF 0 0 0).readX 11 = 0x7FFF ∧
    (scalarRun 0x30A5FFFF 0 0 0).readX 11 = 0xFFFFFFFFFFFFFFFF ∧
    (scalarRun 0x32A5FFFF 0xFFFFFFFFFFFFFFFF 0 0).readX 11 = 0xFFFFFFFFFFFF8000 ∧
    (scalarRun 0x34A5FFFC 0xFFFFFFFFFFFFFFFB 0 0).readX 11 = 1 ∧
    (scalarRun 0x34A5FFFF 0 0 0).readX 11 = 0 ∧
    (scalarRun 0x36A5FFFF 0 0 0).readX 11 = 1 ∧
    (scalarRun 0x36A5FFFF 0xFFFFFFFFFFFFFFFF 0 0).readX 11 = 0 ∧
    (scalarRun 0x38A5803F 1 0 0).readX 11 = 0x8000000000000000 ∧
    (scalarRun 0x38A58040 1 0 0).readX 11 = 1 ∧
    (scalarRun 0x3AA5803F 0x8000000000000000 0 0).readX 11 = 1 ∧
    (scalarRun 0x3CA5803C 0x8000000000000000 0 0).readX 11 = 0xFFFFFFFFFFFFFFF8 ∧
    (scalarRun 0x3EA5801F 1 0 0).readX 11 = 0xFFFFFFFF80000000 ∧
    (scalarRun 0x3EA58020 1 0 0).readX 11 = 1 ∧
    (scalarRun 0x40A5801F 0x80000000 0 0).readX 11 = 1 ∧
    (scalarRun 0x42A5801F 0x80000000 0 0).readX 11 = 0xFFFFFFFFFFFFFFFF := by
  decide +kernel

/-- 95 section 2.2. -/
theorem test_slices :
    (scalarRun 0x80A01234 0xFFFFFFFFFFFFFFFF 0 0).readX 10 = 0xFFFFFFFFFFFF1234 ∧
    (scalarRun 0x80A1ABCD 0 0 0).readX 10 = 0xABCD0000 ∧
    (scalarRun 0x80A20000 0x1111222233334444 0 0).readX 10 = 0x1111000033334444 ∧
    (scalarRun 0x80A3FFFF 0 0 0).readX 10 = 0xFFFF000000000000 := by
  decide +kernel

/-- 95 section 2.3. -/
theorem test_load_store :
    (scalarRun 0x50A58000 0x10000000 99 0).readX 11 = 0xFFFFFFFFFFFFFF80 ∧
    (scalarRun 0x52A58000 0x10000000 99 0).readX 11 = 128 ∧
    (scalarRun 0x54A58000 0x10000000 99 0).readX 11 = 0xFFFFFFFFFFFF8180 ∧
    (scalarRun 0x56A58000 0x10000000 99 0).readX 11 = 0x8180 ∧
    (scalarRun 0x58A58000 0x10000000 99 0).readX 11 = 0xFFFFFFFF83828180 ∧
    (scalarRun 0x5AA58000 0x10000000 99 0).readX 11 = 0x83828180 ∧
    (scalarRun 0x5CA58000 0x10000000 99 0).readX 11 = 0x8786858483828180 ∧
    (scalarRun 0x50A58008 0x10000000 99 0).readX 11 = 8 ∧
    (scalarRun 0x54A5FFFF 0x10000002 99 0).readX 11 = 0xFFFFFFFFFFFF8281 ∧
    (scalarRun 0x58A58001 0x10000000 99 0).readX 11 = 0xFFFFFFFF84838281 ∧
    (scalarRun 0x5CA58003 0x10000000 99 0).readX 11 = 0xA09088786858483 ∧
    ((scalarRun 0x60A58010 0x10000000 0x1122334455667788 0).mem.readBytes 0x10000010 8).map BitVec.toNat = [0x88, 0x00, 0x00, 0x00, 0x00, 0x00, 0x00, 0x00] ∧
    ((scalarRun 0x62A58010 0x10000000 0x1122334455667788 0).mem.readBytes 0x10000010 8).map BitVec.toNat = [0x88, 0x77, 0x00, 0x00, 0x00, 0x00, 0x00, 0x00] ∧
    ((scalarRun 0x64A58010 0x10000000 0x1122334455667788 0).mem.readBytes 0x10000010 8).map BitVec.toNat = [0x88, 0x77, 0x66, 0x55, 0x00, 0x00, 0x00, 0x00] ∧
    ((scalarRun 0x66A58010 0x10000000 0x1122334455667788 0).mem.readBytes 0x10000010 8).map BitVec.toNat = [0x88, 0x77, 0x66, 0x55, 0x44, 0x33, 0x22, 0x11] ∧
    ((scalarRun 0x66A58011 0x10000000 0x1122334455667788 0).mem.readBytes 0x10000010 10).map BitVec.toNat = [0x00, 0x88, 0x77, 0x66, 0x55, 0x44, 0x33, 0x22, 0x11, 0x00] ∧
    (let s := scalarRun 0x60A58000 0x400000 0x1122334455667788 0;
      s.mem = (scalarStart 0x60A58000 0 0 0).mem ∧ s.op = .faulted (.segFault .permission 0x400000 .write)) := by
  decide +kernel

/-- 95 section 2.3. -/
theorem test_scaled_load_store :
    (scalarRun 0x10A5B030 0x10000000 1 99).readX 12 = 0xFFFFFFFFFFFFFF81 ∧
    (scalarRun 0x10A5B031 0x10000000 1 99).readX 12 = 0x81 ∧
    (scalarRun 0x10A5B032 0x10000000 1 99).readX 12 = 0xFFFFFFFFFFFF8382 ∧
    (scalarRun 0x10A5B033 0x10000000 1 99).readX 12 = 0x8382 ∧
    (scalarRun 0x10A5B034 0x10000000 1 99).readX 12 = 0xFFFFFFFF87868584 ∧
    (scalarRun 0x10A5B035 0x10000000 1 99).readX 12 = 0x87868584 ∧
    (scalarRun 0x10A5B036 0x10000000 1 99).readX 12 = 0x0F0E0D0C0B0A0908 ∧
    (scalarRun 0x10A5B034 0x10000010 0xFFFFFFFFFFFFFFFE 99).readX 12 = 0x0B0A0908 ∧
    (let s := scalarRun 0x10A5B036 0x10000000 4 99;
      s.readX 12 = 99 ∧ s.op = .faulted (.segFault .unmapped 0x10000020 .read)) ∧
    ((scalarRun 0x10A5B038 0x10000010 1 0x1122334455667788).mem.readBytes 0x10000011 1).map BitVec.toNat = [0x88] ∧
    ((scalarRun 0x10A5B039 0x10000010 1 0x1122334455667788).mem.readBytes 0x10000012 2).map BitVec.toNat = [0x88, 0x77] ∧
    ((scalarRun 0x10A5B03A 0x10000010 1 0x1122334455667788).mem.readBytes 0x10000014 4).map BitVec.toNat = [0x88, 0x77, 0x66, 0x55] ∧
    ((scalarRun 0x10A5B03B 0x10000010 1 0x1122334455667788).mem.readBytes 0x10000018 8).map BitVec.toNat = [0x88, 0x77, 0x66, 0x55, 0x44, 0x33, 0x22, 0x11] := by
  decide +kernel

/-- 95 section 2.5. -/
theorem test_vector_integers :
    (vectorRun 0x12110C00 (lanesOf 32 [0x7FFFFFFF, 0xFFFFFFFF, 5, 0, 0, 0, 0, 0]) (lanesOf 32 [1, 1, 0xFFFFFFFB, 0, 0, 0, 0, 0]) 0).readV 3 = lanesOf 32 [0x80000000, 0, 0, 0, 0, 0, 0, 0] ∧
    (vectorRun 0x12110C01 (lanesOf 64 [1, 0xFFFFFFFFFFFFFFFF, 3, 4]) (lanesOf 64 [10, 1, 30, 40]) 0).readV 3 = lanesOf 64 [11, 0, 33, 44] ∧
    (vectorRun 0x12110C04 (lanesOf 32 [0, 50, 0, 0, 0, 0, 0, 0]) (lanesOf 32 [1, 8, 0, 0, 0, 0, 0, 0]) 0).readV 3 = lanesOf 32 [0xFFFFFFFF, 42, 0, 0, 0, 0, 0, 0] ∧
    (vectorRun 0x12110C05 (lanesOf 64 [0, 0, 0, 0]) (lanesOf 64 [1, 0, 0, 0]) 0).readV 3 = lanesOf 64 [0xFFFFFFFFFFFFFFFF, 0, 0, 0] ∧
    (vectorRun 0x12110C08 (lanesOf 32 [7, 0xFFFFFFFF, 0x10000, 0, 0, 0, 0, 0]) (lanesOf 32 [6, 2, 0x10000, 0, 0, 0, 0, 0]) 0).readV 3 = lanesOf 32 [42, 0xFFFFFFFE, 0, 0, 0, 0, 0, 0] ∧
    (vectorRun 0x12110C09 (lanesOf 64 [0xFFFFFFFFFFFFFFFF, 0x100000000, 0, 0]) (lanesOf 64 [3, 0x100000000, 0, 0]) 0).readV 3 = lanesOf 64 [0xFFFFFFFFFFFFFFFD, 0, 0, 0] ∧
    (vectorRun 0x12110C0C (lanesOf 32 [0xFFFFFFF9, 7, 1, 1, 1, 1, 1, 1]) (lanesOf 32 [2, 0xFFFFFFFE, 1, 1, 1, 1, 1, 1]) 0).readV 3 = lanesOf 32 [0xFFFFFFFD, 0xFFFFFFFD, 1, 1, 1, 1, 1, 1] ∧
    (let s := vectorRun 0x12110C0C (lanesOf 32 [1, 1, 1, 1, 1, 1, 1, 1]) (lanesOf 32 [1, 1, 1, 0, 1, 1, 1, 1]) 0;
      s.readV 3 = 5 ∧ s.op = .faulted (.arithFault 0x12110C0C)) ∧
    (let s := vectorRun 0x12110C0D (lanesOf 64 [100, 0x8000000000000000, 1, 1]) (lanesOf 64 [7, 0xFFFFFFFFFFFFFFFF, 1, 1]) 0;
      s.readV 3 = 5 ∧ s.op = .faulted (.arithFault 0x12110C0D)) ∧
    (vectorRun 0x12110C10 (lanesOf 64 [0xFF00FF00FF00FF00, 0xFF00FF00FF00FF00, 0xFF00FF00FF00FF00, 0xFF00FF00FF00FF00]) (lanesOf 64 [0xFF00FF00FF00FF0, 0xFF00FF00FF00FF0, 0xFF00FF00FF00FF0, 0xFF00FF00FF00FF0]) 0).readV 3 = lanesOf 64 [0xF000F000F000F00, 0xF000F000F000F00, 0xF000F000F000F00, 0xF000F000F000F00] ∧
    (vectorRun 0x12110C11 (lanesOf 64 [0xFF00FF00FF00FF00, 0xFF00FF00FF00FF00, 0xFF00FF00FF00FF00, 0xFF00FF00FF00FF00]) (lanesOf 64 [0xFF00FF00FF00FF0, 0xFF00FF00FF00FF0, 0xFF00FF00FF00FF0, 0xFF00FF00FF00FF0]) 0).readV 3 = lanesOf 64 [0xFFF0FFF0FFF0FFF0, 0xFFF0FFF0FFF0FFF0, 0xFFF0FFF0FFF0FFF0, 0xFFF0FFF0FFF0FFF0] ∧
    (vectorRun 0x12110C12 (lanesOf 64 [0xFF00FF00FF00FF00, 0xFF00FF00FF00FF00, 0xFF00FF00FF00FF00, 0xFF00FF00FF00FF00]) (lanesOf 64 [0xFF00FF00FF00FF0, 0xFF00FF00FF00FF0, 0xFF00FF00FF00FF0, 0xFF00FF00FF00FF0]) 0).readV 3 = lanesOf 64 [0xF0F0F0F0F0F0F0F0, 0xF0F0F0F0F0F0F0F0, 0xF0F0F0F0F0F0F0F0, 0xF0F0F0F0F0F0F0F0] ∧
    (vectorRun 0x12110C13 (lanesOf 64 [0xFF00FF00FF00FF00, 0xFF00FF00FF00FF00, 0xFF00FF00FF00FF00, 0xFF00FF00FF00FF00]) (lanesOf 64 [0xFF00FF00FF00FF0, 0xFF00FF00FF00FF0, 0xFF00FF00FF00FF0, 0xFF00FF00FF00FF0]) 0).readV 3 = lanesOf 64 [0xF000F000F000F, 0xF000F000F000F, 0xF000F000F000F, 0xF000F000F000F] := by
  decide +kernel

/-- 95 sections 2.5 and 2.6. -/
theorem test_vector_floats :
    (vectorRun 0x12110C03 (lanesOf 64 [0x3FB999999999999A, 0, 0, 0]) (lanesOf 64 [0x3FC999999999999A, 0, 0, 0]) 0).readV 3 = lanesOf 64 [0x3FD3333333333334, 0, 0, 0] ∧
    (vectorRun 0x12110C06 (lanesOf 32 [0x40400000, 0, 0, 0, 0, 0, 0, 0]) (lanesOf 32 [0x3F800000, 0, 0, 0, 0, 0, 0, 0]) 0).readV 3 = lanesOf 32 [0x40000000, 0, 0, 0, 0, 0, 0, 0] ∧
    (vectorRun 0x12110C0A (lanesOf 32 [0x40000000, 0, 0, 0, 0, 0, 0, 0]) (lanesOf 32 [0x40400000, 0, 0, 0, 0, 0, 0, 0]) 0).readV 3 = lanesOf 32 [0x40C00000, 0, 0, 0, 0, 0, 0, 0] ∧
    (vectorRun 0x12110C0B (lanesOf 64 [0x4000000000000000, 0, 0, 0]) (lanesOf 64 [0x3FE0000000000000, 0, 0, 0]) 0).readV 3 = lanesOf 64 [0x3FF0000000000000, 0, 0, 0] ∧
    (vectorRun 0x12110C0F (lanesOf 64 [0x4008000000000000, 0x3FF0000000000000, 0x3FF0000000000000, 0x3FF0000000000000]) (lanesOf 64 [0x4000000000000000, 0x4008000000000000, 0x3FF0000000000000, 0x3FF0000000000000]) 0).readV 3 = lanesOf 64 [0x3FF8000000000000, 0x3FD5555555555555, 0x3FF0000000000000, 0x3FF0000000000000] ∧
    (vectorRun 0x12110C33 (lanesOf 64 [0x3FF0000000000000, 0x3FF0000000000000, 0, 0]) (lanesOf 64 [0x3FF0000000000000, 0x4000000000000000, 0, 0]) 0).readV 3 = lanesOf 64 [1, 0, 1, 1] ∧
    (vectorRun 0x12110C37 (lanesOf 64 [0x3FF0000000000000, 0, 0, 0]) (lanesOf 64 [0x3FF8000000000000, 0, 0, 0]) 0).readV 3 = lanesOf 64 [1, 0, 0, 0] ∧
    (vectorRun 0x12150C40 (lanesOf 32 [1, 2, 0xFFFFFFFF, 10, 0x1000001, 0xFEFFFFFF, 0x7FFFFFFF, 0]) 0 0).readV 3 = lanesOf 32 [0x3F800000, 0x40000000, 0xBF800000, 0x41200000, 0x4B800000, 0xCB800000, 0x4F000000, 0] ∧
    (vectorRun 0x12150C41 (lanesOf 64 [1, 0xFFFFFFFFFFFFFFFF, 0x20000000000001, 0x20000000000003]) 0 0).readV 3 = lanesOf 64 [0x3FF0000000000000, 0xBFF0000000000000, 0x4340000000000000, 0x4340000000000002] ∧
    (vectorRun 0x12150C42 (lanesOf 32 [0x40200000, 0xC0200000, 0x40600000, 0xC0600000, 0x40E00000, 0x80000000, 0x3F000000, 0x3FC00000]) 0 0).readV 3 = lanesOf 32 [2, 0xFFFFFFFE, 4, 0xFFFFFFFC, 7, 0, 0, 2] ∧
    (vectorRun 0x12150C43 (lanesOf 64 [0x4004000000000000, 0xC004000000000000, 0x400C000000000000, 0x401C000000000000]) 0 1).readV 3 = lanesOf 64 [2, 0xFFFFFFFFFFFFFFFD, 3, 7] ∧
    (vectorRun 0x1210284A (lanesOf 32 [0x4B800000, 0x3F800000, 0xCB800000, 0, 0, 0, 0, 0]) 0 0).readX 10 = 0 ∧
    (vectorRun 0x1210284A (lanesOf 32 [0xBF800000, 0, 0, 0, 0, 0, 0, 0]) 0 0).readX 10 = 0x00000000BF800000 ∧
    (vectorRun 0x12150C58 (lanesOf 32 [1, 2, 3, 4, 5, 6, 7, 8]) 0 0x53977).readV 3 = lanesOf 32 [8, 7, 6, 5, 4, 3, 2, 1] ∧
    (vectorRun 0x12150C59 (lanesOf 64 [1, 2, 3, 4]) 0 0x1B).readV 3 = lanesOf 64 [4, 3, 2, 1] ∧
    (vectorRun 0x12110C02 (lanesOf 32 [0x3F800000, 0x3DCCCCCD]) (lanesOf 32 [0x40000000, 0x3E4CCCCD]) 0).readV 3 = lanesOf 32 [0x40400000, 0x3E99999A] ∧
    (vectorRun 0x12110C0E (lanesOf 32 [0x3F800000, 0x3F800000, 0xBF800000, 0x3F800000, 0x3F800000, 0x3F800000, 0x3F800000, 0x3F800000]) (lanesOf 32 [0x40000000, 0x40400000, 0, 0x3F800000, 0x3F800000, 0x3F800000, 0x3F800000, 0x3F800000]) 0).readV 3 = lanesOf 32 [0x3F000000, 0x3EAAAAAB, 0xFF800000, 0x3F800000, 0x3F800000, 0x3F800000, 0x3F800000, 0x3F800000] ∧
    (vectorRun 0x12110C32 (lanesOf 32 [0x3F800000, 0x80000000, 0x7FC00000]) (lanesOf 32 [0x3F800000, 0, 0x7FC00000]) 0).readV 3 = lanesOf 32 [1, 1, 0, 1, 1, 1, 1, 1] ∧
    (vectorRun 0x12110C36 (lanesOf 32 [0xBF800000, 0x40000000, 0x7FC00000, 0x80000000]) (lanesOf 32 [0x3F000000, 0x3F800000, 0x3F800000, 0]) 0).readV 3 = lanesOf 32 [1] ∧
    (vectorRun 0x1210284B (lanesOf 64 [0x3FF0000000000000, 0x4000000000000000, 0x4008000000000000, 0x4010000000000000]) 0 0).readX 10 = 0x4024000000000000 ∧
    (vectorRun 0x12110C07 (lanesOf 64 [0x4008000000000000]) (lanesOf 64 [0x3FF0000000000000]) 0).readV 3 = lanesOf 64 [0x4000000000000000] ∧
    (let s := vectorRun 0x12150C40 (lanesOf 32 [1]) 0 7;
      s.readV 3 = 5 ∧ s.op = .faulted (.cvtModeFault 0x12150C40)) := by
  decide +kernel

/-- 95 section 2.5. -/
theorem test_vector_shifts :
    (vectorRun 0x12150C20 (lanesOf 32 [0x80000001, 0, 0, 0, 0, 0, 0, 0]) 0 4).readV 3 = lanesOf 32 [16, 0, 0, 0, 0, 0, 0, 0] ∧
    (vectorRun 0x12150C20 (lanesOf 32 [0x80000001, 0, 0, 0, 0, 0, 0, 0]) 0 36).readV 3 = lanesOf 32 [16, 0, 0, 0, 0, 0, 0, 0] ∧
    (vectorRun 0x12150C21 (lanesOf 64 [0x8000000000000001, 0, 0, 0]) 0 4).readV 3 = lanesOf 64 [16, 0, 0, 0] ∧
    (vectorRun 0x12150C22 (lanesOf 32 [0x80000010, 0, 0, 0, 0, 0, 0, 0]) 0 4).readV 3 = lanesOf 32 [0x8000001, 0, 0, 0, 0, 0, 0, 0] ∧
    (vectorRun 0x12150C23 (lanesOf 64 [0x8000000000000010, 0, 0, 0]) 0 4).readV 3 = lanesOf 64 [0x800000000000001, 0, 0, 0] ∧
    (vectorRun 0x12150C24 (lanesOf 32 [0x80000010, 0x40000000, 0, 0, 0, 0, 0, 0]) 0 4).readV 3 = lanesOf 32 [0xF8000001, 0x4000000, 0, 0, 0, 0, 0, 0] ∧
    (vectorRun 0x12150C25 (lanesOf 64 [0x8000000000000010, 0, 0, 0]) 0 4).readV 3 = lanesOf 64 [0xF800000000000001, 0, 0, 0] ∧
    (vectorRun 0x12110C28 (lanesOf 32 [1, 1, 1, 1, 1, 1, 1, 1]) (lanesOf 32 [0, 1, 2, 3, 4, 5, 6, 31]) 0).readV 3 = lanesOf 32 [1, 2, 4, 8, 16, 32, 64, 0x80000000] ∧
    (vectorRun 0x12110C28 (lanesOf 32 [1, 0, 0, 0, 0, 0, 0, 0]) (lanesOf 32 [33, 0, 0, 0, 0, 0, 0, 0]) 0).readV 3 = lanesOf 32 [2, 0, 0, 0, 0, 0, 0, 0] ∧
    (vectorRun 0x12110C29 (lanesOf 64 [1, 1, 1, 1]) (lanesOf 64 [0, 1, 32, 63]) 0).readV 3 = lanesOf 64 [1, 2, 0x100000000, 0x8000000000000000] ∧
    (vectorRun 0x12110C2A (lanesOf 32 [0x80000000, 0x80000000, 0, 0, 0, 0, 0, 0]) (lanesOf 32 [31, 0, 0, 0, 0, 0, 0, 0]) 0).readV 3 = lanesOf 32 [1, 0x80000000, 0, 0, 0, 0, 0, 0] ∧
    (vectorRun 0x12110C2B (lanesOf 64 [0x8000000000000000, 0, 0, 0]) (lanesOf 64 [63, 0, 0, 0]) 0).readV 3 = lanesOf 64 [1, 0, 0, 0] ∧
    (vectorRun 0x12110C2C (lanesOf 32 [0x80000000, 0x40000000, 0, 0, 0, 0, 0, 0]) (lanesOf 32 [31, 30, 0, 0, 0, 0, 0, 0]) 0).readV 3 = lanesOf 32 [0xFFFFFFFF, 1, 0, 0, 0, 0, 0, 0] ∧
    (vectorRun 0x12110C2D (lanesOf 64 [0x8000000000000000, 0, 0, 0]) (lanesOf 64 [63, 0, 0, 0]) 0).readV 3 = lanesOf 64 [0xFFFFFFFFFFFFFFFF, 0, 0, 0] := by
  decide +kernel

/-- 95 section 2.6. -/
theorem test_vector_misc :
    (vectorRun 0x12110C30 (lanesOf 32 [1, 2, 3, 4, 5, 6, 7, 8]) (lanesOf 32 [1, 0, 3, 0, 5, 0, 7, 0]) 0).readV 3 = lanesOf 32 [1, 0, 1, 0, 1, 0, 1, 0] ∧
    (vectorRun 0x12110C31 (lanesOf 64 [1, 2, 3, 4]) (lanesOf 64 [1, 0, 3, 0x100000004]) 0).readV 3 = lanesOf 64 [1, 0, 1, 0] ∧
    (vectorRun 0x12110C34 (lanesOf 32 [1, 5, 0xFFFFFFFF, 0, 0, 0, 0, 0]) (lanesOf 32 [2, 5, 0, 0xFFFFFFFF, 0, 0, 0, 0]) 0).readV 3 = lanesOf 32 [1, 0, 1, 0, 0, 0, 0, 0] ∧
    (vectorRun 0x12110C35 (lanesOf 64 [0xFFFFFFFFFFFFFFFF, 7, 0, 3]) (lanesOf 64 [0, 7, 0x8000000000000000, 4]) 0).readV 3 = lanesOf 64 [1, 0, 0, 1] ∧
    (vectorRun 0x12102848 (lanesOf 32 [1, 2, 3, 4, 5, 6, 7, 8]) 0 0).readX 10 = 36 ∧
    (vectorRun 0x12102848 (lanesOf 32 [0x7FFFFFFF, 1, 0, 0, 0, 0, 0, 0]) 0 0).readX 10 = 0xFFFFFFFF80000000 ∧
    (vectorRun 0x12102848 (lanesOf 32 [0xFFFFFFFF, 0, 0, 0, 0, 0, 0, 0]) 0 0).readX 10 = 0xFFFFFFFFFFFFFFFF ∧
    (vectorRun 0x12102849 (lanesOf 64 [1, 2, 3, 4]) 0 0).readX 10 = 10 ∧
    (vectorRun 0x12102849 (lanesOf 64 [0xFFFFFFFFFFFFFFFF, 2, 0, 0]) 0 0).readX 10 = 1 ∧
    (vectorRun 0x12102850 (lanesOf 32 [0x80000000, 1, 0xFFFFFFFF, 0, 0x80000001, 0, 0, 0x7FFFFFFF]) 0 0).readX 10 = 0x15 ∧
    (vectorRun 0x12102851 (lanesOf 64 [0x8000000000000000, 1, 0xFFFFFFFFFFFFFFFF, 0]) 0 0).readX 10 = 0x5 ∧
    (vectorRun 0x12102852 (lanesOf 32 [1, 2, 3, 4, 5, 6, 7, 8]) 0 0).readX 10 = 0x55 ∧
    (vectorRun 0x12102853 (lanesOf 64 [1, 0, 0, 1]) 0 0).readX 10 = 0x9 ∧
    (vectorRun 0x68A08000 0 0 0x10000000).readV 1 = lanesOf 64 [0x8786858483828180, 0x0F0E0D0C0B0A0908] ∧
    (let s := vectorRun 0x68A08001 9 0 0x10000000;
      s.readV 1 = 9 ∧ s.op = .faulted (.segFault .bounds 0x10000001 .read)) ∧
    ((vectorRun 0x6AA08000 (lanesOf 32 [11, 22]) 0 0x10000000).mem.readBytes 0x10000000 12).map BitVec.toNat = [0x0B, 0, 0, 0, 0x16, 0, 0, 0, 0, 0, 0, 0] ∧
    (let s := vectorRun 0x6AA08000 9 0 0x400000;
      s.mem = (vectorStart 0x6AA08000 9 0 0x400000).mem ∧ s.op = .faulted (.segFault .permission 0x400000 .write)) := by
  decide +kernel

/-- 95 section 2.4: the branches at 0x400010, with -1 against 1 and 1 against -1; taken goes to 0x400020. -/
theorem test_branches :
    ([0x70A58003, 0x72A58003, 0x74A58003, 0x76A58003, 0x78A58003, 0x7AA58003].map fun w =>
      ((controlRun w 0xFFFFFFFFFFFFFFFF 1).pc, (controlRun w 1 0xFFFFFFFFFFFFFFFF).pc)) =
      [(0x400014, 0x400014), (0x400020, 0x400020), (0x400020, 0x400014), (0x400014, 0x400020), (0x400014, 0x400020),
        (0x400020, 0x400014)] := by
  decide +kernel

/-- 95 section 2.4. -/
theorem test_jumps :
    (controlRun 0x70004000 0 0).pc = 0x3F0014 ∧ (controlRun 0x70003FFF 0 0).pc = 0x410010 ∧
    (controlRun 0x04100000 0 0).pc = 0x400000 ∧ (controlRun 0x05FFFFFF 0 0).pc = 0x7FFFFFC ∧
    (controlRun 0x06100000 0 0).pc = 0x400000 ∧ (controlRun 0x06100000 0 0).readX 31 = 0x400014 ∧
    (controlRun 0x10A00020 0x123456789ABCDEF1 0).pc = 0x123456789ABCDEF1 ∧
    (controlRun 0x10A00021 0x400003 0).pc = 0x400003 ∧ (controlRun 0x10A00021 0x400003 0).readX 31 = 0x400014 ∧
    (controlRun 0x01FFFFFF 0 0).pc = 0x400014 := by
  decide +kernel

/-- 95 section 2.1: the moves of `hi` and `lo`. -/
theorem test_hi_lo_moves :
    (scalarRun 0x1000300C 0 0 0).readX 12 = 77 ∧ (scalarRun 0x1000300D 0 0 0).readX 12 = 78 ∧
    (scalarRun 0x10A0000E 5 0 0).hi = 5 ∧ (scalarRun 0x10A0000E 5 0 0).lo = 78 ∧
    (scalarRun 0x10A0000F 5 0 0).lo = 5 ∧ (scalarRun 0x10A0000F 5 0 0).hi = 77 := by
  decide +kernel

/-- 95 section 2.7: one service of each kind, and numbers that are none. -/
theorem test_syscall :
    (serviceRun 1 0xFFFFFFFFFFFFFFFF 0 0).trace = [.printInt (-1)] ∧
    (serviceRun 4 0x10000000 0 0).op = .faulted (.segFault .unmapped 0x10000004 .read) ∧
    (serviceRun 6 0 0 0).readX 2 = 0x40200000 ∧
    (serviceRun 15 1 0x10000000 3).trace = [.fileWrite 1 [0x48, 0x69, 0x0A]] ∧
    (serviceRun 15 1 0x10000002 4).op = .faulted (.segFault .unmapped 0x10000004 .read) ∧
    (serviceRun 14 0 0x10000000 4).mem.readBytes 0x10000000 4 = [0x41, 0x42, 0x0A, 0x21] ∧
    (serviceRun 14 0 0x10000000 4).readX 2 = 2 ∧ (serviceRun 14 99 0 4).readX 2 = 0xFFFFFFFFFFFFFFFF ∧
    (serviceRun 17 0x1FF 0 0).exitCode = 0x1FF ∧
    (serviceRun 0x100000001 0 0 0).op = .faulted (.badSyscall 0x100000001) := by
  decide +kernel

/-- 95 section 1.8: the break after a data segment of four bytes, and a growth that would pass the stack. -/
theorem test_sbrk :
    (serviceRun 9 0 0 0).readX 2 = 0x10000004 ∧ (serviceRun 9 0x10 0 0).brk = 0x10000014 ∧
    (serviceRun 9 0x6FDFFFFC 0 0).brk = 0x7FE00000 ∧ (serviceRun 9 0x6FDFFFFD 0 0).readX 2 = 0xFFFFFFFFFFFFFFFF ∧
    (serviceRun 9 0xFFFFFFFFFFFFFFF0 0 0).readX 2 = 0xFFFFFFFFFFFFFFFF := by
  decide +kernel

/-- Right after reset the next step runs the word placed where it fetches (`li.0 %t0, 0x1234`). -/
theorem test_placed_word : (stateAfter (step (State.reset.withFetchWord 32 0x80A01234))).readX 10 = 0x1234 := by
  decide +kernel

/-! ### Witnesses: for every statement with hypotheses a state, and operands, that meet them -/

/-- Six segments with their first bytes laid out: O2, O4. -/
def someImage : Executable := image [0x10A5B000] [0x48, 0x69, 0x00, 0x41, 0x42]

theorem test_witness_loads : someImage.Loads 0x200000 0 ∧ someImage.Loads 0x200000 7 :=
  ⟨⟨by decide +kernel, by decide +kernel, by decide +kernel⟩, ⟨by decide +kernel, by decide +kernel, by decide +kernel⟩⟩

/-- A machine with `add %t2, %t0, %t1` at `pc`. -/
def someMachine : State := machine someImage

theorem test_witness_stack_size : (0x200000 : Nat) ≤ config.stackEnd.toNat ∧ 0x80000000 ≤ config.stackEnd.toNat := by
  decide +kernel

theorem test_witness_StoppedStays :
    ({ someMachine with op := .halted } : State).stopped = true ∧
    ({ someMachine with op := .faulted (.badSyscall 0) } : State).stopped = true := by
  decide +kernel

theorem inv_someMachine : someMachine.Inv :=
  ⟨by decide +kernel, by decide +kernel, by decide +kernel, by decide +kernel, by decide +kernel,
    by decide +kernel, [], by decide +kernel⟩

theorem step_someMachine : step someMachine = .next (stateAfter (step someMachine)) := eq_next _ (by decide +kernel)

theorem test_witness_StepKeepsInvariant : someMachine.Inv ∧ step someMachine = .next (stateAfter (step someMachine)) :=
  ⟨inv_someMachine, step_someMachine⟩

/-- Just below the data segment, its first and last byte, just above it: O6. -/
theorem test_witness_CheckOrder :
    someMachine.segments.disjoint = true ∧
    (∀ g ∈ someMachine.segments.all, (0x0FFFFFFF#64).toNat < g.min ∨ g.min + g.size ≤ (0x0FFFFFFF#64).toNat) ∧
    (∀ g ∈ someMachine.segments.all, (0x10000005#64).toNat < g.min ∨ g.min + g.size ≤ (0x10000005#64).toNat) ∧
    (∃ g ∈ someMachine.segments.all, g.min = (0x10000000#64).toNat ∧ g.min + g.size = (0x10000004#64).toNat + 1 ∧
      g.allows .fetch = false ∧ g.allows .read = true ∧
      g.min + g.size < (0x10000004#64).toNat + 2 ∧ (0x10000004#64).toNat + 1 ≤ g.min + g.size) := by
  refine ⟨by decide +kernel, by decide +kernel, by decide +kernel, someMachine.segments.data, by decide +kernel, ?_⟩
  decide +kernel

/-- A segment that reaches the end of the space, and an access that would pass it: O6. -/
def topMachine : State :=
  { someMachine with segments := { someMachine.segments with text := ⟨2 ^ 64 - 4, 4, true, false, true⟩ } }

theorem test_witness_CheckOrder_top :
    topMachine.segments.disjoint = true ∧ topMachine.segments.text ∈ topMachine.segments.all ∧
    topMachine.segments.text.min ≤ (0xFFFFFFFFFFFFFFFD#64).toNat ∧
    (0xFFFFFFFFFFFFFFFD#64).toNat < topMachine.segments.text.min + topMachine.segments.text.size ∧
    topMachine.segments.text.allows .fetch = true ∧ 2 ^ 64 < (0xFFFFFFFFFFFFFFFD#64).toNat + 4 ∧
    (0xFFFFFFFFFFFFFFFC#64).toNat + 4 ≤ 2 ^ 64 := by
  decide +kernel

theorem test_witness_ReadAndFetch :
    Accessible someMachine .read 0x10000001 4 ∧
    someMachine.accessFault .read 0x10000002 4 = some (.segFault .bounds 0x10000002 .read) ∧
    Accessible someMachine .fetch 0x400000 4 ∧
    someMachine.accessFault .fetch 0x400001 4 = some (.segFault .bounds 0x400001 .fetch) := by
  unfold Accessible
  decide +kernel

theorem test_witness_WriteChangesItsBytes :
    Memory.wf someMachine.mem ∧ Accessible someMachine .write 0x10000001 4 ∧
    someMachine.accessFault .write 0x10000002 4 = some (.segFault .bounds 0x10000002 .write) := by
  unfold Accessible
  decide +kernel

theorem test_witness_StepRunsDecoded :
    someMachine.op = .ready ∧ Accessible someMachine .fetch someMachine.pc 4 ∧
    HoldsValue someMachine someMachine.pc.toNat 4 0x10A5B000#32 ∧ decode 0x10A5B000#32 = .ok (.add 10 11 12) := by
  unfold Accessible HoldsValue
  decide +kernel

/-- A fetch that fails: unmapped, not executable, past the end of the text. -/
theorem test_witness_fetch_faults :
    (someMachine.setPc 0x400004).op = .ready ∧
    (someMachine.setPc 0x400004).accessFault .fetch 0x400004 4 = some (.segFault .unmapped 0x400004 .fetch) ∧
    (someMachine.setPc 0x10000000).accessFault .fetch 0x10000000 4 = some (.segFault .permission 0x10000000 .fetch) := by
  decide +kernel

/-- A machine with an illegal word at `pc`. -/
def illegalMachine : State := machine (image [0xFFFFFFFF] [])

theorem test_witness_decode_fault :
    illegalMachine.op = .ready ∧ Accessible illegalMachine .fetch illegalMachine.pc 4 ∧
    HoldsValue illegalMachine illegalMachine.pc.toNat 4 0xFFFFFFFF#32 ∧
    decode 0xFFFFFFFF#32 = .error .unknownOpcode := by
  unfold Accessible HoldsValue
  decide +kernel

theorem test_witness_RoundTrip : decode 0x10A5B000#32 = .ok (.add 10 11 12) := by decide +kernel

/-! #### Divisions -/

/-- A machine with these two values in registers 10 and 11. -/
def pairMachine (a b : Word) : State := (someMachine.writeX 10 a).writeX 11 b

theorem test_witness_Divide :
    (let s := pairMachine 0x8000000000000000 0x8000000000000000;
      ¬((s.readX 11).toInt = 0 ∨ ((s.readX 10).toInt = -2 ^ 63 ∧ (s.readX 11).toInt = -1)) ∧ (s.readX 11).toNat ≠ 0) ∧
    (let s := pairMachine 0x80000000 0x80000000;
      ¬(((s.readX 11).extractLsb' 0 32).toInt = 0 ∨ (((s.readX 10).extractLsb' 0 32).toInt = -2 ^ 31 ∧
        ((s.readX 11).extractLsb' 0 32).toInt = -1)) ∧ ((s.readX 11).extractLsb' 0 32).toNat ≠ 0) := by
  decide +kernel

theorem test_witness_Divide_faults :
    (let s := pairMachine 0x8000000000000000 0xFFFFFFFFFFFFFFFF;
      (s.readX 10).toInt = -2 ^ 63 ∧ (s.readX 11).toInt = -1) ∧
    (let s := pairMachine 0x80000000 0xFFFFFFFF;
      ((s.readX 10).extractLsb' 0 32).toInt = -2 ^ 31 ∧ ((s.readX 11).extractLsb' 0 32).toInt = -1) ∧
    (let s := pairMachine 1 0x100000000;
      ((s.readX 11).extractLsb' 0 32).toInt = 0 ∧ ((s.readX 11).extractLsb' 0 32).toNat = 0) ∧
    (pairMachine 1 0).readX 11 = 0 := by
  decide +kernel

/-- A machine with these two values in vector registers 1 and 2. -/
def vectorMachine (a b : VWord) : State := (someMachine.writeV 1 a).writeV 2 b

theorem test_witness_VectorDivide :
    (let s := vectorMachine (lanesOf 32 [0x80000000]) (ofLanes 32 fun _ => 1);
      ¬(∃ k, k < 8 ∧ ((lane 32 k (s.readV 2)).toInt = 0 ∨
        ((lane 32 k (s.readV 1)).toInt = -2 ^ 31 ∧ (lane 32 k (s.readV 2)).toInt = -1)))) ∧
    (let s := vectorMachine (lanesOf 64 [0x8000000000000000]) (ofLanes 64 fun _ => 1);
      ¬(∃ k, k < 4 ∧ ((lane 64 k (s.readV 2)).toInt = 0 ∨
        ((lane 64 k (s.readV 1)).toInt = -2 ^ 63 ∧ (lane 64 k (s.readV 2)).toInt = -1)))) := by
  decide +kernel

/-- The last lane has the divisor 0; lane 0 has the most negative value over -1. -/
theorem test_witness_VectorDivide_faults :
    (let s := vectorMachine (lanesOf 32 [0x80000000]) (lanesOf 32 [0xFFFFFFFF, 1, 1, 1, 1, 1, 1, 0]);
      (lane 32 7 (s.readV 2)).toInt = 0 ∧
        (lane 32 0 (s.readV 1)).toInt = -2 ^ 31 ∧ (lane 32 0 (s.readV 2)).toInt = -1) ∧
    (let s := vectorMachine (lanesOf 64 [0x8000000000000000]) (lanesOf 64 [0xFFFFFFFFFFFFFFFF, 1, 1, 0]);
      (lane 64 3 (s.readV 2)).toInt = 0 ∧
        (lane 64 0 (s.readV 1)).toInt = -2 ^ 63 ∧ (lane 64 0 (s.readV 2)).toInt = -1) := by
  decide +kernel

/-! #### Loads and stores -/

/-- A machine with 64 bytes of data, and two values in registers 10 and 11. -/
def dataMachine (a b : Word) : State := ((machine (image [0x10A5B000] (List.replicate 64 1))).writeX 10 a).writeX 11 b

/-- Every width at the last place of the data segment, for reads and writes, and one byte further. -/
theorem test_witness_LoadsImmediate_Stores :
    Memory.wf (dataMachine 0x10000040 0).mem ∧
    ∀ n ∈ [1, 2, 4, 8, 32],
      (let s := dataMachine 0x10000040 0;
        s.accessFault .read (s.readX 10 + (BitVec.ofInt 15 (-(n : Nat))).signExtend 64) n = none ∧
        s.accessFault .write (s.readX 10 + (BitVec.ofInt 15 (-(n : Nat))).signExtend 64) n = none ∧
        (s.accessFault .read (s.readX 10 + (BitVec.ofInt 15 (1 - (n : Nat))).signExtend 64) n).isSome = true ∧
        (s.accessFault .write (s.readX 10 + (BitVec.ofInt 15 (1 - (n : Nat))).signExtend 64) n).isSome = true) := by
  decide +kernel

theorem test_witness_LoadsScaled_Stores :
    ∀ k ∈ [0, 1, 2, 3],
      (let s := dataMachine 0x10000040 0xFFFFFFFFFFFFFFFF;
        s.accessFault .read (s.readX 10 + (s.readX 11 <<< k)) (2 ^ k) = none ∧
        s.accessFault .write (s.readX 10 + (s.readX 11 <<< k)) (2 ^ k) = none) ∧
      (let s := dataMachine 0x10000041 0xFFFFFFFFFFFFFFFF;
        (s.accessFault .read (s.readX 10 + (s.readX 11 <<< k)) (2 ^ k)).isSome = true ∧
        (s.accessFault .write (s.readX 10 + (s.readX 11 <<< k)) (2 ^ k)).isSome = true) := by
  decide +kernel

/-! #### Floats and conversions -/

/-- Infinity, a NaN, the largest subnormal, the smallest and the largest normal of both formats. -/
theorem test_witness_FloatPatterns :
    ([0x7F800000, 0x7F800001, 0x007FFFFF, 0x00800000, 0x7F7FFFFF, 0xFF7FFFFF].map fun p =>
      (decide (p < 2 * binary32.signBit), p / 2 ^ binary32.fracBits % 2 ^ binary32.expBits,
        decide (p % 2 ^ binary32.fracBits = 0))) =
      [(true, 255, true), (true, 255, false), (true, 0, false), (true, 1, true), (true, 254, false), (true, 254, false)] ∧
    ([0x7FF0000000000000, 0x7FF0000000000001, 0x000FFFFFFFFFFFFF, 0x0010000000000000, 0xFFEFFFFFFFFFFFFF].map fun p =>
      (decide (p < 2 * binary64.signBit), p / 2 ^ binary64.fracBits % 2 ^ binary64.expBits,
        decide (p % 2 ^ binary64.fracBits = 0))) =
      [(true, 2047, true), (true, 2047, false), (true, 0, false), (true, 1, true), (true, 2046, false)] := by
  decide +kernel

/-- The four selectors of a conversion, bits above them set: O38, O39. -/
theorem test_witness_conversion_selectors :
    ([4, 5, 6, 7].map fun m : Word => (((pairMachine 0 m).readX 11).extractLsb' 0 2).toNat) = [0, 1, 2, 3] := by
  decide +kernel

/-- The float -2^31 is the smallest integer of a lane, and 2.5 lies half way: O39. -/
theorem test_witness_FloatToInteger :
    binary32.datum (lane 32 0 ((vectorMachine (lanesOf 32 [0xCF000000]) 0).readV 1)).toNat = .fin true (2 ^ 31 * 2 ^ 149) ∧
    IsRounded .nearest (finiteValue binary32 true (2 ^ 31 * 2 ^ 149)) (-2 ^ 31) ∧
    IsRounded .floor (finiteValue binary32 true (2 ^ 31 * 2 ^ 149)) (-2 ^ 31) ∧
    IsRounded .ceil (finiteValue binary32 true (2 ^ 31 * 2 ^ 149)) (-2 ^ 31) ∧
    binary32.datum (lane 32 0 ((vectorMachine (lanesOf 32 [0x40200000]) 0).readV 1)).toNat = .fin false (5 * 2 ^ 148) ∧
    IsRounded .nearest (finiteValue binary32 false (5 * 2 ^ 148)) 2 := by
  have h : finiteValue binary32 true (2 ^ 31 * 2 ^ 149) = ((-2 ^ 31 : Int) : Rat) := by
    norm_num [finiteValue, signedQuanta, FloatFormat.unit, binary32]
  refine ⟨by decide +kernel, ?_, ?_, ?_, by decide +kernel, ?_⟩
  · rw [h]; simp [IsRounded]
  · rw [h]; exact (Int.floor_intCast _).symm
  · rw [h]; exact (Int.ceil_intCast _).symm
  · have h2 : finiteValue binary32 false (5 * 2 ^ 148) = 5 / 2 := by
      norm_num [finiteValue, signedQuanta, FloatFormat.unit, binary32]
    rw [h2]
    constructor
    · norm_num [abs_of_neg]
    · intro _; decide

/-- The double -2^63 is the smallest integer of a 64-bit lane: O39. -/
theorem test_witness_FloatToInteger_64 :
    binary64.datum (lane 64 0 ((vectorMachine (lanesOf 64 [0xC3E0000000000000]) 0).readV 1)).toNat =
      .fin true (2 ^ 63 * 2 ^ 1074) ∧
    IsRounded .floor (finiteValue binary64 true (2 ^ 63 * 2 ^ 1074)) (-2 ^ 63) := by
  refine ⟨by decide +kernel, ?_⟩
  have h : finiteValue binary64 true (2 ^ 63 * 2 ^ 1074) = ((-2 ^ 63 : Int) : Rat) := by
    simp only [finiteValue, signedQuanta, FloatFormat.unit, binary64, if_true]
    push_cast
    rw [neg_div, mul_div_assoc, div_self (by positivity), mul_one]
  rw [h]; exact (Int.floor_intCast _).symm

/-! #### Syscalls -/

/-- Two answers lined up are given to two questions, one each, and then none is lined up: O49, Log 5. -/
theorem test_witness_answers :
    (let s : State := { (machine (userImage [0x02000000, 0x02000000] [])).writeX 2 5 with
        hostInput := [⟨5, [], true, true⟩, ⟨9, [], true, true⟩] };
      let t := stateAfter (step s);
      let u := stateAfter (step t);
      t.readX 2 = 5 ∧ t.hostInput = [⟨9, [], true, true⟩] ∧ u.readX 2 = 9 ∧ u.hostInput = []) := by
  decide +kernel

theorem test_witness_oracle :
    (hostReset someImage 0x200000 0 [⟨7, [], true, true⟩] { someMachine with op := .halted }).hostInput =
      [⟨7, [], true, true⟩] ∧ someMachine.hostInput = [] := by
  decide +kernel

/-- A machine with a service number, three arguments, the data `Hi`, zero, `AB`, and one answer of the host. -/
def askMachine (n a b c : Word) (answer : HostAnswer) : State :=
  { (((someMachine.writeX 2 n).writeX 4 a).writeX 5 b).writeX 6 c with hostInput := [answer] }

theorem test_witness_BadSyscall :
    ((askMachine 0 0 0 0 default).readX 2).toNat = 0 ∧ 18 ≤ ((askMachine 18 0 0 0 default).readX 2).toNat := by
  decide +kernel

theorem test_witness_service_numbers :
    ((List.range 18).map fun n => ((askMachine (BitVec.ofNat 64 n) 0 0 0 default).readX 2#5).toNat) = List.range 18 := by
  decide +kernel

/-- The string at the start of the data, and the empty string at its zero byte: O47, O53. -/
theorem test_witness_HoldsString (n : Word) (h : n = 4 ∨ n = 13) :
      HoldsString (askMachine n 0x10000000 0 0 default) ((askMachine n 0x10000000 0 0 default).readX 4) [0x48, 0x69] ∧
      HoldsString (askMachine n 0x10000002 0 0 default) ((askMachine n 0x10000002 0 0 default).readX 4) [] := by
  unfold HoldsString HoldsBytes BufferAccessible InSegmentOf Accessible
  rcases h with rfl | rfl <;> decide +kernel

/-- The data `AB` with no zero byte, and a heap of one byte, which is zero, right after it. -/
def heapMachine : State :=
  let s := (machine (userImage [0x02000000] [0x41, 0x42])).writeX 4 0x10000000
  { s with segments := { s.segments with heap := { s.segments.heap with size := 1 } } }

/-- The scan leaves the data before a zero byte: it faults at the heap's first byte, readable as it is (46/R364). -/
theorem test_string_leaves_segment : Accessible heapMachine .read 0x10000002 1 ∧
    heapMachine.byteAt 0x10000002 = 0 ∧
    heapMachine.scanString (heapMachine.readX 4) = .stopped (.segFault .unmapped 0x10000002 .read) := by
  unfold Accessible
  decide +kernel

/-- The same for O47 and O53, at the segment's end. -/
theorem test_witness_ScanStops_segment (n : Word) (h : n = 4 ∨ n = 13) :
    (heapMachine.writeX 2 n).readX 2 = n ∧ ScanStops (heapMachine.writeX 2 n) ((heapMachine.writeX 2 n).readX 4)
      (.segFault .unmapped 0x10000002 .read) := by
  refine ⟨?_, 2, by norm_num, ?_⟩
  · rcases h with rfl | rfl <;> decide +kernel
  · unfold BufferAccessible InSegmentOf ScanByteStops Accessible
    rcases h with rfl | rfl <;> decide +kernel

/-- The two bytes at the end of the data have no zero byte and no segment after them: O47, O53. -/
theorem test_witness_ScanStops (n : Word) (h : n = 4 ∨ n = 13) :
    ScanStops (askMachine n 0x10000003 0 0 default) ((askMachine n 0x10000003 0 0 default).readX 4)
      (.segFault .unmapped 0x10000005 .read) := by
  refine ⟨2, by norm_num, ?_⟩
  unfold BufferAccessible InSegmentOf ScanByteStops Accessible
  rcases h with rfl | rfl <;> decide +kernel

/-- `n` bytes from address 0 up, none of them zero. -/
def fullMemory (n : Nat) : Memory := (List.range' 0 n).map fun a => (a, 1#8)

/-- Every address is readable and no byte is zero: O48. -/
def fullMachine (n : Word) : State :=
  { someMachine.writeX 2 n with
    segments := { someMachine.segments with text := ⟨0, 2 ^ 64, true, false, true⟩ }
    mem := fullMemory (2 ^ 64) }

theorem read_full (n : Nat) : ∀ lo a, lo ≤ a → a < lo + n →
    Memory.read ((List.range' lo n).map fun a => (a, 1#8)) a = 1#8 := by
  induction n with
  | zero => intro lo a h1 h2; omega
  | succ n ih =>
    intro lo a h1 h2
    simp only [List.range'_succ, List.map_cons, Memory.read]
    split
    · rfl
    · exact ih (lo + 1) a (by omega) (by omega)

theorem read_fullMemory (n a : Nat) (h : a < n) : Memory.read (fullMemory n) a = 1#8 :=
  read_full n 0 a (Nat.zero_le a) (by omega)

theorem byteAt_fullMachine (n : Word) (a : Nat) (h : a < 2 ^ 64) : (fullMachine n).byteAt a = 1#8 :=
  read_fullMemory (2 ^ 64) a h

/-- One segment that holds every address is found for every address. -/
theorem lookup_whole (g : SegmentMap) (h : g.text = ⟨0, 2 ^ 64, true, false, true⟩) (a : Nat) (ha : a < 2 ^ 64) :
    g.lookup a = some g.text := by
  have hc : g.text.contains a = true := by
    rw [h]; unfold Segment.contains Segment.limit
    simp only [Bool.and_eq_true, decide_eq_true_eq]; omega
  unfold SegmentMap.lookup SegmentMap.all
  exact List.find?_cons_of_pos (by simpa using hc)

/-- Such a segment answers every read. -/
theorem check_whole (g : SegmentMap) (h : g.text = ⟨0, 2 ^ 64, true, false, true⟩) (a : Nat) (ha : a < 2 ^ 64) :
    g.check .read a 1 = none := by
  have hv : g.text.covers a 1 = true := by
    rw [h]; unfold Segment.covers Segment.limit
    simp only [Bool.and_eq_true, decide_eq_true_eq]; omega
  have hr : g.text.allows .read = true := by rw [h]; rfl
  unfold SegmentMap.check
  rw [lookup_whole g h a ha]
  simp only [hv, hr, if_true]

theorem accessible_fullMachine (n a : Word) : Accessible (fullMachine n) .read a 1 := by
  unfold Accessible State.accessFault
  rw [check_whole _ rfl a.toNat a.isLt]; rfl

theorem readX_fullMachine (n : Word) : (fullMachine n).readX 2 = n := by
  show (someMachine.writeX 2 n).readX 2 = n
  rw [State.readX_writeX_same]; rfl

theorem test_witness_EndlessString :
    ((fullMachine 4).readX 2 = 4 ∧ (fullMachine 13).readX 2 = 13) ∧
    ∀ n, (∀ a, Accessible (fullMachine n) .read a 1 ∧ (fullMachine n).byteAt a.toNat ≠ 0#8) ∧
      ∃ g, ∀ a : Word, (fullMachine n).segments.lookup a.toNat = some g :=
  ⟨⟨readX_fullMachine 4, readX_fullMachine 13⟩, fun n =>
    ⟨fun a => ⟨accessible_fullMachine n a, by rw [byteAt_fullMachine n _ a.isLt]; decide⟩,
      _, fun a => lookup_whole _ rfl a.toNat a.isLt⟩⟩

/-- The host types `AB`; the buffer has room for it, or ends after one byte: O50. -/
theorem test_witness_ReadString :
    (let s := askMachine 8 0 3 0 ⟨0, [0x41, 0x42], true, true⟩;
      s.hostAnswer.bytes.length ≤ (s.readX 5).toNat - 1 ∧ 0#8 ∉ s.hostAnswer.bytes) ∧
    (askMachine 8 0 0 0 default).readX 5 = 0 ∧
    (let s := askMachine 8 0x10000002 3 0 ⟨0, [0x41, 0x42], true, true⟩;
      0 < (s.readX 5).toNat ∧ typedString s.hostAnswer (s.readX 5).toNat = [0x41, 0x42] ∧
      ∀ j, j < 3 → s.accessFault .write (s.readX 4 + BitVec.ofNat 64 j) 1 = none) ∧
    (let s := askMachine 8 0x10000004 3 0 ⟨0, [0x41, 0x42], true, true⟩;
      0 < (s.readX 5).toNat ∧ typedString s.hostAnswer (s.readX 5).toNat = [0x41, 0x42] ∧
      s.accessFault .write (s.readX 4 + BitVec.ofNat 64 0) 1 = none ∧
      s.accessFault .write (s.readX 4 + BitVec.ofNat 64 1) 1 = some (.segFault .unmapped 0x10000005 .write)) ∧
    Memory.wf someMachine.mem := by
  decide +kernel

/-- The same for a read from the standard input: O54. -/
theorem test_witness_ReadFileService :
    (let s := askMachine 14 0 0x10000003 2 ⟨0, [0x41, 0x42], true, true⟩;
      FdTable.find s.fds (s.readX 4).toNat = some .readOnly ∧ s.hostAnswer.ok = true ∧
      s.hostAnswer.bytes.take (s.readX 6).toNat = [0x41, 0x42] ∧
      ∀ j, j < 2 → s.accessFault .write (s.readX 5 + BitVec.ofNat 64 j) 1 = none) ∧
    (let s := askMachine 14 0 0x10000004 2 ⟨0, [0x41, 0x42], true, true⟩;
      s.accessFault .write (s.readX 5 + BitVec.ofNat 64 0) 1 = none ∧
      s.accessFault .write (s.readX 5 + BitVec.ofNat 64 1) 1 = some (.segFault .unmapped 0x10000005 .write)) ∧
    (askMachine 14 0 0 0 ⟨0, [], false, true⟩).hostAnswer.ok = false ∧
    FdTable.find someMachine.fds 1 = some .writeOnly ∧ FdTable.find someMachine.fds 3 = none := by
  decide +kernel

/-- A machine with descriptor 3 open for both. -/
def fileMachine (n a b c : Word) (answer : HostAnswer) : State :=
  { askMachine n a b c answer with fds := someMachine.fds ++ [(3, .readWrite)] }

theorem test_witness_WriteFileService :
    (let s := askMachine 15 2 0x10000000 5 ⟨0, [], false, false⟩;
      FdTable.find s.fds (s.readX 4).toNat = some .writeOnly ∧ (s.readX 4).toNat < 3 ∧
      ∀ j, j < (s.readX 6).toNat → s.accessFault .read (s.readX 5 + BitVec.ofNat 64 j) 1 = none) ∧
    (let s := fileMachine 15 3 0x10000000 5 ⟨0, [], false, false⟩;
      FdTable.find s.fds (s.readX 4).toNat = some .readWrite ∧ 3 ≤ (s.readX 4).toNat ∧ s.hostAnswer.ok = false) ∧
    (let s := askMachine 15 1 0x10000000 6 ⟨0, [], false, false⟩;
      (∀ j, j < 5 → s.accessFault .read (s.readX 5 + BitVec.ofNat 64 j) 1 = none) ∧ 5 < (s.readX 6).toNat ∧
      s.accessFault .read (s.readX 5 + BitVec.ofNat 64 5) 1 = some (.segFault .unmapped 0x10000005 .read)) ∧
    FdTable.find someMachine.fds 0 = some .readOnly := by
  decide +kernel

theorem test_witness_CloseService :
    (let s := fileMachine 16 3 0 0 default; 3 ≤ (s.readX 4).toNat ∧ FdTable.find s.fds (s.readX 4).toNat ≠ none) ∧
    ((askMachine 16 2 0 0 default).readX 4).toNat < 3 ∧
    (let s := askMachine 16 3 0 0 default; FdTable.find s.fds (s.readX 4).toNat = none) := by
  decide +kernel

/-- The three access modes, the create bit, and the invalid mode: O53. -/
theorem test_witness_OpenService :
    ([0, 1, 0x42, 3].map fun f : Word => (((askMachine 13 0 f 0 default).readX 5).extractLsb' 0 2).toNat) = [0, 1, 2, 3] ∧
    ((askMachine 13 0 0x42 0 default).readX 5).getLsbD 6 = true ∧
    ((askMachine 13 0 0x02 0 default).readX 5).getLsbD 6 = false ∧
    (askMachine 13 0 0 0 ⟨0, [], true, true⟩).hostAnswer.ok = true ∧
    (askMachine 13 0 0 0 ⟨0, [], true, true⟩).hostAnswer.fileExists = true ∧
    (askMachine 13 0 0 0 ⟨0, [], true, false⟩).hostAnswer.fileExists = false ∧
    (askMachine 13 0 0 0 ⟨0, [], false, false⟩).hostAnswer.ok = false := by
  decide +kernel

/-- A growth up to the next segment, one byte into it, up to the stack, one byte past it, and a negative one: O51. -/
theorem test_witness_Sbrk :
    (let s := askMachine 9 0x0FFFFFFB 0 0 default;
      0 < (s.readX 4).toInt ∧ s.brk + (s.readX 4).toNat ≤ s.segments.stack.min ∧
      ∀ g ∈ [s.segments.text, s.segments.data, s.segments.ktext, s.segments.kdata, s.segments.stack],
        s.brk + (s.readX 4).toNat ≤ g.min ∨ g.min + g.size ≤ s.brk) ∧
    (let s := askMachine 9 0x0FFFFFFC 0 0 default;
      s.brk ≤ 0x20000000 ∧ 0x20000000 < s.brk + (s.readX 4).toNat ∧ s.segments.ktext.min ≤ 0x20000000 ∧
      0x20000000 < s.segments.ktext.min + s.segments.ktext.size) ∧
    (let s := askMachine 9 0x6FDFFFFC 0 0 default; s.segments.stack.min < s.brk + (s.readX 4).toNat) ∧
    ((askMachine 9 0xFFFFFFFFFFFFFFFF 0 0 default).readX 4).toInt < 0 ∧ (askMachine 9 0 0 0 default).readX 4 = 0 := by
  decide +kernel

/-- The third clause's bytes, said of every address: O51. -/
theorem test_witness_Sbrk_free (g : Segment) (a : Nat)
    (hg : g ∈ (let s := askMachine 9 0x0FFFFFFB 0 0 default;
      [s.segments.text, s.segments.data, s.segments.ktext, s.segments.kdata, s.segments.stack]))
    (h1 : (askMachine 9 0x0FFFFFFB 0 0 default).brk ≤ a)
    (h2 : a < (askMachine 9 0x0FFFFFFB 0 0 default).brk + ((askMachine 9 0x0FFFFFFB 0 0 default).readX 4).toNat) :
    a < g.min ∨ g.min + g.size ≤ a := by
  have := test_witness_Sbrk.1.2.2 g hg
  omega

/-- One number of each clause, its ends among them: O57. -/
theorem test_witness_SyscallRegisters :
    ([0, 4, 8, 10, 11, 17, 18, 5].all fun n =>
      isNext (exec (.syscall 0) (askMachine n 0x10000000 0 0 default))) = true := by
  decide +kernel

theorem test_witness_SyscallRegisters_next (n : Word)
    (h : isNext (exec (.syscall 0) (askMachine n 0x10000000 0 0 default)) = true) :
    exec (.syscall 0) (askMachine n 0x10000000 0 0 default) =
      .next (stateAfter (exec (.syscall 0) (askMachine n 0x10000000 0 0 default))) := eq_next _ h

/-! #### Whole-machine statements -/

/-- The first and the last byte of the text: O58. -/
theorem test_witness_WriteProtection :
    (someMachine.segments.disjoint = true ∧ someMachine.segments.text ∈ someMachine.segments.all ∧
      someMachine.segments.text.w = false ∧ someMachine.segments.text.min ≤ 0x400000 ∧
      0x400003 < someMachine.segments.text.min + someMachine.segments.text.size) ∧
    step someMachine = .next (stateAfter (step someMachine)) :=
  ⟨by decide +kernel, step_someMachine⟩

theorem test_witness_KernelBankInert : step someMachine = .next (stateAfter (step someMachine)) := step_someMachine

/-- A step that ends Faulted by its word, one by its fetch, and one by a store with 8 in register 2: O60. -/
theorem test_witness_PreciseFaults :
    (illegalMachine.op = .ready ∧
      step illegalMachine = .next (stateAfter (step illegalMachine)) ∧
      (stateAfter (step illegalMachine)).op = .faulted (.decodeError 0xFFFFFFFF)) ∧
    (let s := someMachine.setPc 0x400004;
      step s = .next (stateAfter (step s)) ∧
      (stateAfter (step s)).op = .faulted (.segFault .unmapped 0x400004 .fetch)) ∧
    (let s := (machine (image [0x60A50000] [])).writeX 2 8;
      s.op = .ready ∧ step s = .next (stateAfter (step s)) ∧
      (stateAfter (step s)).op = .faulted (.segFault .unmapped 0 .write)) :=
  ⟨⟨by decide +kernel, eq_next _ (by decide +kernel), by decide +kernel⟩,
    ⟨eq_next _ (by decide +kernel), by decide +kernel⟩, by decide +kernel, eq_next _ (by decide +kernel),
    by decide +kernel⟩

/-- read_string and read whose buffers end after one byte: that byte has changed, and the step ends Faulted: O60. -/
theorem test_witness_PreciseFaults_buffer :
    (let s := serviceStart 8 0x10000003 3 0;
      s.op = .ready ∧ HoldsValue s s.pc.toNat 4 0x02000000#32 ∧ decode 0x02000000#32 = .ok (.syscall 0) ∧
      step s = .next (stateAfter (step s)) ∧
      (stateAfter (step s)).op = .faulted (.segFault .unmapped 0x10000004 .write) ∧
      (stateAfter (step s)).byteAt 0x10000003 ≠ s.byteAt 0x10000003) ∧
    (let s := serviceStart 14 0 0x10000003 2;
      s.op = .ready ∧ step s = .next (stateAfter (step s)) ∧
      (stateAfter (step s)).op = .faulted (.segFault .unmapped 0x10000004 .write) ∧
      (stateAfter (step s)).byteAt 0x10000003 ≠ s.byteAt 0x10000003) := by
  unfold HoldsValue
  exact ⟨⟨by decide +kernel, by decide +kernel, by decide +kernel, eq_next _ (by decide +kernel), by decide +kernel,
    by decide +kernel⟩, by decide +kernel, eq_next _ (by decide +kernel), by decide +kernel, by decide +kernel⟩
end Sys2Proof.Tests
end

section
/-! PROOFS. A machine that is not running, and what a reset makes of the state (10/R23, R34, 70/R440, R442, R445). -/

namespace Sys2Proof.Machine

/-! ### Reset -/

/-- A slot of the register file after one slot is set. -/
theorem getElem_setReg {α : Type} (x : Vector α 32) (i r : RegNum) (w : α) :
    (x.set i.toNat w i.isLt)[r.toNat]'r.isLt = if r = i then w else x[r.toNat]'r.isLt := by
  rw [Vector.getElem_set]
  exact if_congr (by rw [BitVec.toNat_inj, eq_comm]) rfl rfl

/-- Three registers are set at reset, the others are 0 (10/R23). -/
theorem getElem_registersAtReset (r : RegNum) :
    registersAtReset[r.toNat]'r.isLt =
      if r = 30#5 then config.fpReset else if r = 29#5 then config.spReset
      else if r = 28#5 then config.gpReset else 0#64 := by
  simp only [registersAtReset, getElem_setReg, Vector.getElem_replicate]
  rfl

@[simp] theorem hostReset_op (i : Executable) (stackSize gap : Nat) (oracle : List HostAnswer) (s : State) :
    (hostReset i stackSize gap oracle s).op = .ready := rfl

@[simp] theorem hostReset_hostInput (i : Executable) (stackSize gap : Nat) (oracle : List HostAnswer) (s : State) :
    (hostReset i stackSize gap oracle s).hostInput = oracle := rfl

@[simp] theorem hostReset_kernel (i : Executable) (stackSize gap : Nat) (oracle : List HostAnswer) (s : State) :
    (hostReset i stackSize gap oracle s).kernel = ⟨0#64, 0#64, 0#64, 0#64, 0#64, 0#64⟩ := rfl

/-- Every general register after a reset. The three special registers are different, so their order does not matter. -/
theorem readX_hostReset (i : Executable) (stackSize gap : Nat) (oracle : List HostAnswer) (s : State) (r : RegNum) :
    (hostReset i stackSize gap oracle s).readX r =
      if r = 28#5 then config.gpReset else if r = 29#5 then config.spReset
      else if r = 30#5 then config.fpReset else 0#64 := by
  by_cases h0 : r = 0#5
  · subst h0; rfl
  · refine (State.readX_nonzero _ h0).trans ((getElem_registersAtReset r).trans ?_)
    by_cases hfp : r = 30#5
    · subst hfp; simp
    · by_cases hsp : r = 29#5
      · subst hsp; simp
      · simp [hfp, hsp]

/-- Every vector register after a reset (10/R28). -/
theorem readV_hostReset (i : Executable) (stackSize gap : Nat) (oracle : List HostAnswer) (s : State) (r : RegNum) :
    (hostReset i stackSize gap oracle s).readV r = 0#256 :=
  Vector.getElem_replicate r.isLt

/-! ### Halted and Faulted -/

/-- Nothing is fetched where the machine is stopped (10/R34). -/
theorem fetchDecode_of_stopped {s : State} (h : s.stopped = true) : s.fetchDecode = .stays s := by
  unfold State.stopped at h
  unfold State.fetchDecode
  cases ho : s.op with
  | ready => rw [ho] at h; cases h
  | halted => rfl
  | faulted c => rfl

theorem step_of_stopped {s : State} (h : s.stopped = true) : step s = .next s := by
  unfold step
  rw [fetchDecode_of_stopped h]

/-- Settles O1: field by field, the general registers by what the three writes of the reset leave in each slot. -/
theorem resetRegisters : Obligations.ResetRegisters := by
  intro i stackSize gap oracle s
  exact ⟨readX_hostReset i stackSize gap oracle s, readV_hostReset i stackSize gap oracle s, rfl, rfl, rfl,
    hostReset_kernel i stackSize gap oracle s, hostReset_op i stackSize gap oracle s, rfl, rfl⟩

/-- Settles O3: a stopped machine fetches nothing, and a reset does not look at the operational state. -/
theorem stoppedStays : Obligations.StoppedStays := fun s h =>
  ⟨step_of_stopped h, fun i stackSize gap oracle =>
    ⟨hostReset_op i stackSize gap oracle s, hostReset_hostInput i stackSize gap oracle s⟩⟩

end Sys2Proof.Machine
end

section
/-! PROOFS. The kernel bank is inert (10/R31): putting another bank into a state commutes with every operation over the
state, hence with a step. That a step keeps the bank follows from this alone: with its own bank put in, a state is the
same, and so must be the next one. -/

namespace Sys2Proof.Machine

/-- The state with another kernel bank. -/
def State.withBank (s : State) (bank : KernelBank) : State := { s with kernel := bank }

/-- The outcome with another kernel bank in the next state, where there is one. -/
def bankedResult (bank : KernelBank) : Result → Result
  | .next t => .next (t.withBank bank)
  | .fault f => .fault f
  | .refused r => .refused r

section Commutes
variable (s : State) (bank : KernelBank)

/-! ### What is read does not depend on the bank -/

@[simp] theorem withBank_readX (r : RegNum) : (s.withBank bank).readX r = s.readX r := rfl
@[simp] theorem withBank_readV (r : RegNum) : (s.withBank bank).readV r = s.readV r := rfl
@[simp] theorem withBank_offsetAddress (rs : RegNum) (imm : BitVec 15) :
    offsetAddress (s.withBank bank) rs imm = offsetAddress s rs imm := rfl
@[simp] theorem withBank_arg (k : Fin 6) : (s.withBank bank).arg k = s.arg k := rfl
@[simp] theorem withBank_op : (s.withBank bank).op = s.op := rfl
@[simp] theorem withBank_pc : (s.withBank bank).pc = s.pc := rfl
@[simp] theorem withBank_fds : (s.withBank bank).fds = s.fds := rfl
@[simp] theorem withBank_hostAnswer : (s.withBank bank).hostAnswer = s.hostAnswer := rfl
@[simp] theorem withBank_memFetch (a : Word) : (s.withBank bank).memFetch a = s.memFetch a := rfl
@[simp] theorem withBank_memRead (a : Word) (n : Nat) : (s.withBank bank).memRead a n = s.memRead a n := rfl
@[simp] theorem withBank_scanByte (start a : Word) : (s.withBank bank).scanByte start a = s.scanByte start a := rfl

@[simp] theorem withBank_readBuffer (n : Nat) : ∀ a, (s.withBank bank).readBuffer a n = s.readBuffer a n := by
  induction n with
  | zero => exact fun _ => rfl
  | succ n ih => intro a; simp only [State.readBuffer, withBank_memRead, ih]

theorem withBank_scanFrom (start : Word) (fuel : Nat) :
    ∀ a, (s.withBank bank).scanFrom start a fuel = s.scanFrom start a fuel := by
  induction fuel with
  | zero => exact fun _ => rfl
  | succ fuel ih => intro a; simp only [State.scanFrom, withBank_scanByte, ih]

@[simp] theorem withBank_scanString (a : Word) : (s.withBank bank).scanString a = s.scanString a :=
  withBank_scanFrom s bank a _ a

/-! ### What is written does not reach the bank -/

@[simp] theorem withBank_asked : (s.withBank bank).asked = s.asked.withBank bank := rfl

/-- An alternative whose condition does not depend on the bank. -/
theorem withBank_ite {p q : Prop} [Decidable p] [Decidable q] {bank : KernelBank} {t u t' u' : State} (h : q ↔ p)
    (ht : t' = t.withBank bank) (hu : u' = u.withBank bank) :
    (if q then t' else u') = (if p then t else u).withBank bank := by
  rw [ht, hu, apply_ite (State.withBank · bank)]
  exact if_congr h rfl rfl

/-- A checked write: the same condition, or the same bytes written beside the other bank. -/
theorem withBank_memWrite (a : Word) (n : Nat) (w : BitVec (8 * n)) :
    (s.withBank bank).memWrite a n w = (s.memWrite a n w).map (·.withBank bank) := by
  cases h : s.accessFault .write a n with
  | none => rw [memWrite_ok w h, memWrite_ok (s := s.withBank bank) w h]; rfl
  | some c => rw [memWrite_error w h, memWrite_error (s := s.withBank bank) w h]; rfl

/-- A buffer write, both where it completes and where it stops (46/R364). -/
theorem withBank_writeBuffer (a : Word) (bs : List Byte) :
    (s.withBank bank).writeBuffer a bs =
      ((s.writeBuffer a bs).map (·.withBank bank)).mapError (·.withBank bank) := by
  rcases writeBuffer_cases bs s a with h | ⟨j, c, hj, h⟩
  · rw [writeBuffer_ok bs s a h, writeBuffer_ok bs (s.withBank bank) a (h.congr rfl)]; rfl
  · rw [writeBuffer_error c bs s a j hj h, writeBuffer_error c bs (s.withBank bank) a j hj (h.congr rfl)]; rfl

/-! ### The shared operations of the instructions -/

theorem withBank_loadOp (n : Nat) (extend : BitVec (8 * n) → Word) (a : Word) (dst : RegNum) :
    loadOp n extend a dst (s.withBank bank) = (loadOp n extend a dst s).withBank bank := by
  unfold loadOp
  rw [withBank_memRead]
  cases s.memRead a n <;> rfl

theorem withBank_storeOp (n : Nat) (a : Word) (src : RegNum) :
    storeOp n a src (s.withBank bank) = (storeOp n a src s).withBank bank := by
  unfold storeOp
  rw [withBank_memWrite, withBank_readX]
  cases s.memWrite a n ((s.readX src).setWidth (8 * n)) <;> rfl

theorem withBank_branchOp (rel : Word → Word → Bool) (rs rt : RegNum) (imm : BitVec 15) :
    branchOp rel rs rt imm (s.withBank bank) = (branchOp rel rs rt imm s).withBank bank :=
  withBank_ite Iff.rfl rfl rfl

theorem withBank_divideOp {w : Nat} (i : Instr) (widen : BitVec w → Word) (result : Option (BitVec w × BitVec w)) :
    divideOp i widen result (s.withBank bank) = (divideOp i widen result s).withBank bank := by
  cases result <;> rfl

theorem withBank_vecDivideOp (w : Nat) (i : Instr) (rs rt rd : RegNum) :
    vecDivideOp w i rs rt rd (s.withBank bank) = (vecDivideOp w i rs rt rd s).withBank bank := by
  unfold vecDivideOp
  rw [withBank_readV, withBank_readV]
  cases quotientLanes w (s.readV rs) (s.readV rt) <;> rfl

theorem withBank_convertOp (i : Instr) (lanes : RoundMode → VWord) (draws : Nat) (rt rd : RegNum) :
    convertOp i lanes draws rt rd (s.withBank bank) = (convertOp i lanes draws rt rd s).withBank bank := by
  unfold convertOp
  rw [withBank_readX]
  cases config.cvtMode ((s.readX rt).extractLsb' 0 2) <;> rfl

/-! ### The services -/

/-- A string service, where its use of the string does not depend on the bank. -/
theorem withBank_withString (a : Word) (use use' : List Byte → State)
    (h : ∀ bs, use' bs = (use bs).withBank bank) :
    withString (s.withBank bank) a use' = bankedResult bank (withString s a use) := by
  unfold withString
  rw [withBank_scanString]
  cases s.scanString a with
  | found bs => exact congrArg Host.Outcome.next (h bs)
  | stopped c => rfl
  | endless => rfl

theorem withBank_serviceReadString :
    serviceReadString (s.withBank bank) = (serviceReadString s).withBank bank := by
  unfold serviceReadString
  simp only [withBank_arg, withBank_asked, withBank_hostAnswer, withBank_writeBuffer]
  refine withBank_ite Iff.rfl rfl ?_
  cases s.asked.writeBuffer (s.arg 0) (typedString s.hostAnswer (s.arg 1).toNat ++ [0#8]) <;> rfl

theorem withBank_serviceSbrk : serviceSbrk (s.withBank bank) = (serviceSbrk s).withBank bank :=
  withBank_ite Iff.rfl rfl (withBank_ite Iff.rfl rfl (withBank_ite Iff.rfl rfl rfl))

theorem withBank_openPath (path : List Byte) :
    openPath (s.withBank bank) path = (openPath s path).withBank bank := by
  unfold openPath
  simp only [withBank_arg]
  cases config.openAccess (s.arg 1) with
  | none => rfl
  | some access => exact withBank_ite Iff.rfl rfl rfl

theorem withBank_serviceRead : serviceRead (s.withBank bank) = (serviceRead s).withBank bank := by
  unfold serviceRead
  simp only [withBank_fds, withBank_arg, withBank_asked, withBank_hostAnswer, withBank_writeBuffer]
  cases FdTable.find s.fds (s.arg 0).toNat with
  | none => rfl
  | some access =>
    refine withBank_ite Iff.rfl (withBank_ite Iff.rfl ?_ rfl) rfl
    cases s.asked.writeBuffer (s.arg 1) (s.hostAnswer.bytes.take (s.arg 2).toNat) <;> rfl

theorem withBank_serviceWrite : serviceWrite (s.withBank bank) = (serviceWrite s).withBank bank := by
  unfold serviceWrite
  simp only [withBank_fds, withBank_arg, withBank_readBuffer]
  cases FdTable.find s.fds (s.arg 0).toNat with
  | none => rfl
  | some access =>
    refine withBank_ite Iff.rfl ?_ rfl
    cases s.readBuffer (s.arg 1) (s.arg 2).toNat with
    | error c => rfl
    | ok bytes => exact withBank_ite Iff.rfl rfl (withBank_ite Iff.rfl rfl rfl)

theorem withBank_serviceClose : serviceClose (s.withBank bank) = (serviceClose s).withBank bank :=
  withBank_ite Iff.rfl rfl rfl

theorem withBank_runService (service : Service) :
    runService service (s.withBank bank) = bankedResult bank (runService service s) := by
  cases service with
  | printString => exact withBank_withString s bank _ _ _ fun _ => rfl
  | openFile => exact withBank_withString s bank _ _ _ (withBank_openPath s bank)
  | readString => exact congrArg Host.Outcome.next (withBank_serviceReadString s bank)
  | sbrk => exact congrArg Host.Outcome.next (withBank_serviceSbrk s bank)
  | readFile => exact congrArg Host.Outcome.next (withBank_serviceRead s bank)
  | writeFile => exact congrArg Host.Outcome.next (withBank_serviceWrite s bank)
  | closeFile => exact congrArg Host.Outcome.next (withBank_serviceClose s bank)
  | printInt | printFloat | printDouble | printChar => rfl
  | readInt | readFloat | readDouble | readChar => rfl
  | exit | exit2 => rfl

theorem withBank_execSyscall : execSyscall (s.withBank bank) = bankedResult bank (execSyscall s) := by
  unfold execSyscall
  rw [withBank_readX]
  dsimp only
  cases config.service (s.readX config.serviceReg) with
  | none => rfl
  | some service => exact withBank_runService s bank service

/-! ### Every instruction, and a step -/

/-- No instruction depends on the kernel bank or changes it: the instructions whose outcome turns on an access, on the
operands or on the host by the lemma of their operation, the others by what they write. -/
theorem withBank_exec (i : Instr) : exec i (s.withBank bank) = bankedResult bank (exec i s) := by
  cases i with
  | syscall => exact withBank_execSyscall s bank
  | lb | lbu | lh | lhu | lw | lwu | ld | lbx | lbux | lhx | lhux | lwx | lwux | ldx =>
    exact congrArg Host.Outcome.next (withBank_loadOp s bank _ _ _ _)
  | sb | sh | sw | sd | sbx | shx | swx | sdx => exact congrArg Host.Outcome.next (withBank_storeOp s bank _ _ _)
  | beq | bne | blt | bge | bltu | bgeu => exact congrArg Host.Outcome.next (withBank_branchOp s bank _ _ _ _)
  | div | divu | divw | divuw => exact congrArg Host.Outcome.next (withBank_divideOp s bank _ _ _)
  | vdivi32 | vdivi64 => exact congrArg Host.Outcome.next (withBank_vecDivideOp s bank _ _ _ _ _)
  | vcvti32f32 | vcvti64f64 | vcvtf32i32 | vcvtf64i64 =>
    exact congrArg Host.Outcome.next (withBank_convertOp s bank _ _ _ _ _)
  | vld rs rt imm =>
    simp only [exec, execVld]
    rw [withBank_offsetAddress, withBank_memRead]
    cases s.memRead (offsetAddress s rs imm) 32 <;> rfl
  | vst rs rt imm =>
    simp only [exec, execVst]
    rw [withBank_offsetAddress, withBank_readV, withBank_memWrite]
    cases s.memWrite (offsetAddress s rs imm) 32 (s.readV rt) <;> rfl
  | _ => rfl

/-- A step from the state with another bank answers the same outcome with that bank (10/R31). -/
theorem withBank_step : step (s.withBank bank) = bankedResult bank (step s) := by
  unfold step State.fetchDecode
  rw [withBank_op, withBank_pc, withBank_memFetch]
  cases s.op with
  | halted => rfl
  | faulted c => rfl
  | ready =>
    dsimp only
    cases s.memFetch s.pc with
    | error c => rfl
    | ok w =>
      dsimp only
      cases decode w with
      | error e => rfl
      | ok i => exact withBank_exec (s.setPc (s.pc + 4#64)) bank i

end Commutes

/-- A step that answers a next state, from the state with another bank. -/
theorem step_withBank_of_next {s t : State} (bank : KernelBank) (h : step s = .next t) :
    step (s.withBank bank) = .next (t.withBank bank) := by
  rw [withBank_step, h]
  rfl

/-- No step changes the kernel bank: a state with its own bank put in is the same state. -/
theorem step_kernel {s t : State} (h : step s = .next t) : t.kernel = s.kernel := by
  have hb : step s = .next (t.withBank s.kernel) := step_withBank_of_next s.kernel h
  have ht : t = t.withBank s.kernel := Host.Outcome.next.inj (h.symm.trans hb)
  calc
    t.kernel = (t.withBank s.kernel).kernel := congrArg State.kernel ht
    _ = s.kernel := rfl

/-- Settles O59: a step commutes with putting in another bank, and keeps the bank because it commutes with putting in
the state's own. -/
theorem kernelBankInert : Obligations.KernelBankInert :=
  ⟨hostReset_kernel, fun _ _ bank h => ⟨step_kernel h, step_withBank_of_next bank h⟩⟩

end Sys2Proof.Machine
end

section
/-! PROOFS. One access to memory: the order of its checks (20/R67, R68), what a read and a fetch give (20/R70, R72), and
what a write changes (20/R71). -/

namespace Sys2Proof.Machine

/-! ### The checks -/

theorem Segment.contains_iff (g : Segment) (a : Nat) : g.contains a = true ↔ g.min ≤ a ∧ a < g.min + g.size := by
  simp only [Segment.contains, Bool.and_eq_true, decide_eq_true_eq]
  unfold Segment.limit
  omega

theorem Segment.covers_iff (g : Segment) (a n : Nat) :
    g.covers a n = true ↔ g.min ≤ a ∧ a + n ≤ g.min + g.size ∧ a + n ≤ 2 ^ 64 := by
  simp only [Segment.covers, Bool.and_eq_true, decide_eq_true_eq]
  exact Iff.rfl

/-- A byte that no segment holds has no segment (20/R67). -/
theorem lookup_of_unmapped {g : SegmentMap} {a : Nat} (h : ∀ seg ∈ g.all, a < seg.min ∨ seg.min + seg.size ≤ a) :
    g.lookup a = none :=
  List.find?_eq_none.mpr fun seg hs hc => by
    have hin := (seg.contains_iff a).mp hc
    have hout := h seg hs
    omega

theorem accessFault_of_lookup_none {s : State} {a : Word} (h : s.segments.lookup a.toNat = none) (k : AccessKind)
    (n : Nat) : s.accessFault k a n = some (.segFault .unmapped a k) := by
  unfold State.accessFault SegmentMap.check
  rw [h]
  rfl

/-- Once the segment of the first byte is known, the flag is asked for before the bounds (20/R68). -/
theorem accessFault_of_lookup {s : State} {a : Word} {g : Segment} (h : s.segments.lookup a.toNat = some g)
    (k : AccessKind) (n : Nat) :
    s.accessFault k a n =
      if g.allows k then if g.covers a.toNat n then none else some (.segFault .bounds a k)
      else some (.segFault .permission a k) := by
  unfold State.accessFault SegmentMap.check
  rw [h]
  dsimp only
  split
  · split <;> rfl
  · rfl

/-- Settles O6: the segments do not overlap, so the lookup finds the segment that holds the first byte, and its flag and
its bounds decide the rest. -/
theorem checkOrder : Obligations.CheckOrder := by
  intro s k a n _ hd
  refine ⟨fun hout => accessFault_of_lookup_none (lookup_of_unmapped hout) k n, fun g hg hlo hhi => ?_⟩
  have hcheck := accessFault_of_lookup (lookup_of_mem s.segments hd g hg a.toNat hlo hhi) k n
  refine ⟨fun hflag => ?_, fun hflag hpast => ?_, fun hflag hend hspace => ?_⟩
  · rw [hcheck, if_neg (by simp [hflag])]
  · have hcov : ¬ g.covers a.toNat n = true := fun hc => by
      obtain ⟨_, hend, hspace⟩ := (g.covers_iff a.toNat n).mp hc
      omega
    rw [hcheck, if_pos hflag, if_neg hcov]
  · have hcov : g.covers a.toNat n = true := (g.covers_iff a.toNat n).mpr ⟨hlo, hend, hspace⟩
    exact hcheck.trans (by rw [if_pos hflag, if_pos hcov])

/-! ### Reads, fetches and writes -/

/-- A 32-bit word is its four bytes, the most significant first. -/
theorem word_eq_bytes (w : BitVec 32) :
    w = w.extractLsb' 24 8 ++ w.extractLsb' 16 8 ++ w.extractLsb' 8 8 ++ w.extractLsb' 0 8 := by
  rw [BitVec.extractLsb'_append_extractLsb'_eq_extractLsb' (by rfl),
    BitVec.extractLsb'_append_extractLsb'_eq_extractLsb' (by rfl),
    BitVec.extractLsb'_append_extractLsb'_eq_extractLsb' (by rfl), BitVec.extractLsb'_eq_self]

/-- The four-byte value at an address, spelled as the rule of the fetch spells it (20/R72). -/
theorem HoldsValue.eq_fetched {s : State} {a : Nat} {w : BitVec (8 * 4)} (h : HoldsValue s a 4 w) :
    w = s.byteAt (a + 3) ++ s.byteAt (a + 2) ++ s.byteAt (a + 1) ++ s.byteAt a := by
  rw [← h 3 (by decide), ← h 2 (by decide), ← h 1 (by decide), ← Nat.add_zero a, ← h 0 (by decide)]
  exact word_eq_bytes w

/-- Settles O7: an access that passes its checks loads the value of the bytes at its address, one that does not gives
the condition of the check. -/
theorem readAndFetch : Obligations.ReadAndFetch := fun s a n =>
  ⟨fun ok => ⟨_, memRead_ok ok, holdsValue_load s a.toNat n⟩, fun _ hf => memRead_error hf,
    fun ok => ⟨_, memFetch_ok ok, (holdsValue_load s a.toNat 4).eq_fetched⟩, fun _ hf => memFetch_error hf⟩

/-- Settles O8: a write that passes its checks is a store into a canonical memory, one that does not gives no state. -/
theorem writeChangesItsBytes : Obligations.WriteChangesItsBytes := fun s a n v hm =>
  ⟨fun ok => ⟨_, memWrite_ok v ok, writesBytes_store s a.toNat n v hm⟩, fun _ hf => memWrite_error v hf⟩

end Sys2Proof.Machine
end

section
/-! PROOFS. What a step can do to memory, the segment table and the descriptor table, said once over `step_cases`,
`exec_cases` and `syscall_cases`; from it, that no step writes where the W flag is missing (20/R63, R68, R71). -/

namespace Sys2Proof.Machine

/-! ### What a step can do to memory and the descriptors -/

/-- The memory and the segment table after a step. -/
inductive MemoryEffect (s t : State) : Prop where
  /-- as before -/
  | kept (hm : t.mem = s.mem) (hs : t.segments = s.segments)
  /-- a store that passed its checks -/
  | stored (a : Word) (n : Nat) (w : BitVec (8 * n)) (ha : Accessible s .write a n)
      (hm : t.mem = s.mem.store a.toNat n w) (hs : t.segments = s.segments)
  /-- a service's buffer, each byte checked -/
  | buffer (a : Word) (bs : List Byte) (ha : BufferAccessible s .write a bs.length)
      (hm : t.mem = writeAll s.mem a bs) (hs : t.segments = s.segments)
  /-- the heap grown by `n` bytes, below the stack and into no other segment -/
  | grown (n : Nat) (hn : 0 < n) (hk : s.brk + n ≤ s.segments.stack.min) (ho : meetsOther s.segments s.brk n = false)
      (hm : t.mem = s.mem.clear s.brk (s.brk + n))
      (hs : t.segments = { s.segments with heap := { s.segments.heap with size := s.segments.heap.size + n } })

/-- The descriptor table after a step: open adds the lowest free number, close removes one from 3 up (46/R377, R380). -/
def DescriptorEffect (before after : FdTable) : Prop :=
  after = before ∨ (∃ m, after = FdTable.add before (FdTable.lowestFree before) m) ∨
    ∃ fd, 3 ≤ fd ∧ after = FdTable.drop before fd

/-- What a step can do to memory, the segment table and the descriptors. -/
structure StorageEffect (s t : State) : Prop where
  memory : MemoryEffect s t
  fds : DescriptorEffect s.fds t.fds

/-- Nothing of memory, the segment table and the descriptors changes. -/
theorem StorageEffect.of_kept {s t : State} (hm : t.mem = s.mem) (hs : t.segments = s.segments) (hf : t.fds = s.fds) :
    StorageEffect s t := ⟨.kept hm hs, .inl hf⟩

/-- The advance of `pc` before the instruction runs (30/R100) does not matter to memory. -/
theorem MemoryEffect.of_setPc {s t : State} {p : Word} (h : MemoryEffect (s.setPc p) t) : MemoryEffect s t := by
  cases h with
  | kept hm hs => exact .kept hm hs
  | stored a n w ha hm hs => exact .stored a n w ha hm hs
  | buffer a bs ha hm hs => exact .buffer a bs ha hm hs
  | grown n hn hk ho hm hs => exact .grown n hn hk ho hm hs

theorem ServiceMemory.memoryEffect {service : Service} {s t : State} (h : ServiceMemory service s t) :
    MemoryEffect s t := by
  cases h with
  | kept hm hs => exact .kept hm hs
  | buffer a bs _ ha hm hs => exact .buffer a bs ha hm hs
  | grown n hn hk ho hm hs => exact .grown n hn hk ho hm hs

theorem Effect.storageEffect {s t : State} (h : Effect s t) : StorageEffect s t := by
  cases h with
  | registers hr => exact .of_kept hr.mem hr.segments hr.fds
  | raises c _ => exact .of_kept rfl rfl rfl
  | stores a n w ha => exact ⟨.stored a n w ha rfl rfl, .inl rfl⟩

theorem execSyscall_storage {s t : State} (h : execSyscall s = .next t) : StorageEffect s t := by
  rcases syscall_cases s t h with ⟨_, rfl⟩ | ⟨service, _, he⟩
  · exact .of_kept rfl rfl rfl
  · exact ⟨he.memory.memoryEffect, he.fds⟩

theorem exec_storage {i : Instr} {s t : State} (h : exec i s = .next t) : StorageEffect s t := by
  rcases exec_cases i s t h with ⟨addr, rfl⟩ | he
  · exact execSyscall_storage h
  · exact he.storageEffect

theorem step_storage {s t : State} (h : step s = .next t) : StorageEffect s t := by
  rcases step_cases s t h with ⟨_, rfl⟩ | ⟨_, c, _, rfl⟩ | ⟨_, w, rfl⟩ | ⟨_, w, i, _, _, he⟩
  · exact .of_kept rfl rfl rfl
  · exact .of_kept rfl rfl rfl
  · exact .of_kept rfl rfl rfl
  · obtain ⟨hm, hf⟩ := exec_storage he
    exact ⟨hm.of_setPc, hf⟩

/-! ### Segments that are not writable -/

/-- With segments that do not overlap, the bytes of an access that passed its checks lie in no segment without the flag
of the access. -/
theorem Accessible.not_mem_of_forbidden {s : State} {k : AccessKind} {a : Word} {n : Nat} (h : Accessible s k a n)
    (hd : s.segments.disjoint = true) {g : Segment} (hg : g ∈ s.segments.all) (hk : g.allows k = false) {b : Nat}
    (hlo : g.min ≤ b) (hhi : b < g.min + g.size) : b < a.toNat ∨ a.toNat + n ≤ b := by
  obtain ⟨seg, hseg, _, hallow, hfirst, _, hlast, _⟩ := h.segment
  by_contra hin
  have hsame : some g = some seg :=
    (lookup_of_mem s.segments hd g hg b hlo hhi).symm.trans
      (lookup_of_mem s.segments hd seg hseg b (by omega) (by omega))
  cases hsame
  exact absurd hallow (by simp [hk])

/-- A segment of the table is one of the five others, or the heap. -/
theorem SegmentMap.mem_all_iff (g : SegmentMap) (seg : Segment) :
    seg ∈ g.all ↔ seg ∈ [g.text, g.data, g.ktext, g.kdata, g.stack] ∨ seg = g.heap := by
  simp only [SegmentMap.all, List.mem_cons, List.not_mem_nil, or_false, or_assoc]

/-- When no segment but the heap holds one of `n` bytes from `lo` up (46/R373). -/
theorem meetsOther_eq_false_iff (g : SegmentMap) (lo n : Nat) : meetsOther g lo n = false ↔
    ∀ seg ∈ [g.text, g.data, g.ktext, g.kdata, g.stack], seg.overlaps ⟨lo, n, false, false, false⟩ = false := by
  simp only [meetsOther, List.any_eq_false, Bool.not_eq_true]

/-- The bytes a growing heap takes lie in no segment there is (46/R373). -/
theorem not_mem_of_grown {g : SegmentMap} {n : Nat} (ho : meetsOther g g.heap.limit n = false) {seg : Segment}
    (hs : seg ∈ g.all) {b : Nat} (hlo : seg.min ≤ b) (hhi : b < seg.min + seg.size) :
    b < g.heap.limit ∨ g.heap.limit + n ≤ b := by
  rcases (g.mem_all_iff seg).mp hs with hother | rfl
  · have hfree : ¬ seg.overlaps ⟨g.heap.limit, n, false, false, false⟩ = true := by
      simpa using (meetsOther_eq_false_iff g _ n).mp ho seg hother
    rw [Segment.overlaps_iff] at hfree
    dsimp only at hfree
    omega
  · exact .inl hhi

/-- Settles O58: each of the ways a step can change memory leaves the segment's bytes alone; stores and buffers because
their bytes lie in writable segments, the heap because it grows over bytes of no segment. -/
theorem writeProtection : Obligations.WriteProtection := by
  intro s t g b hd hstep hg hw hlo hhi
  unfold State.byteAt
  cases (step_storage hstep).memory with
  | kept hm _ => rw [hm]
  | stored a n w ha hm _ =>
    rw [hm]
    exact Memory.read_store_outside s.mem a.toNat n w b (ha.not_mem_of_forbidden hd hg hw hlo hhi)
  | buffer a bs ha hm _ =>
    rw [hm]
    refine read_writeAll_outside bs s.mem a b fun j hj e => ?_
    have := (ha j hj).not_mem_of_forbidden hd hg hw hlo hhi
    omega
  | grown n _ _ ho hm _ =>
    rw [hm]
    exact Memory.read_clear_outside s.mem _ _ b (not_mem_of_grown ho hg hlo hhi)

end Sys2Proof.Machine
end

section
/-! PROOFS. The invariant of the machine: every load establishes it and every step keeps it, part by part (20/R61, R63,
R66, 10/R31, R37). -/

namespace Sys2Proof.Machine

/-! ### Segments that do not overlap -/

theorem SegmentMap.disjoint_iff (g : SegmentMap) :
    g.disjoint = true ↔ g.all.Pairwise fun a b => a.overlaps b = false := decide_eq_true_iff

@[simp] theorem Segment.overlaps_of_left_empty {g h : Segment} (e : g.size = 0) : g.overlaps h = false := by
  simp [Segment.overlaps, e]

@[simp] theorem Segment.overlaps_of_right_empty {g h : Segment} (e : h.size = 0) : g.overlaps h = false := by
  simp [Segment.overlaps, e]

/-- The segment with `n` bytes more at its end. -/
def Segment.extend (g : Segment) (n : Nat) : Segment := { g with size := g.size + n }

/-- A segment that shares no byte with another, nor with the bytes the other takes at its end, shares none with the
longer one. -/
theorem Segment.overlaps_extend {seg h : Segment} {n : Nat} (hold : seg.overlaps h = false)
    (hnew : seg.overlaps ⟨h.limit, n, false, false, false⟩ = false) : seg.overlaps (h.extend n) = false := by
  simp only [← Bool.not_eq_true, Segment.overlaps_iff, Segment.limit, Segment.extend] at hold hnew ⊢
  omega

/-- The segments do not overlap when the five others do not, and none of them meets the heap. -/
theorem SegmentMap.disjoint_iff_heap (g : SegmentMap) : g.disjoint = true ↔
    ([g.text, g.data, g.ktext, g.kdata, g.stack].Pairwise fun a b => a.overlaps b = false) ∧
      ∀ seg ∈ [g.text, g.data, g.ktext, g.kdata, g.stack], seg.overlaps g.heap = false := by
  rw [SegmentMap.disjoint_iff,
    show g.all = [g.text, g.data, g.ktext, g.kdata, g.stack] ++ [g.heap] from rfl, List.pairwise_append]
  simp only [List.pairwise_singleton, true_and, List.mem_singleton, forall_eq]

/-- A heap that grows into no other segment leaves the segments without overlap (46/R373). -/
theorem disjoint_of_grown {g : SegmentMap} {n : Nat} (hd : g.disjoint = true)
    (ho : meetsOther g g.heap.limit n = false) : ({ g with heap := g.heap.extend n } : SegmentMap).disjoint = true := by
  obtain ⟨hothers, hheap⟩ := g.disjoint_iff_heap.mp hd
  have hnew := (meetsOther_eq_false_iff g _ n).mp ho
  exact (SegmentMap.disjoint_iff_heap _).mpr
    ⟨hothers, fun seg hs => Segment.overlaps_extend (hheap seg hs) (hnew seg hs)⟩

/-! ### The descriptor table -/

theorem FdTable.ne_of_find_none {t : FdTable} {fd : Nat} (h : FdTable.find t fd = none) : ∀ e ∈ t, e.1 ≠ fd := by
  unfold FdTable.find at h
  rw [Option.map_eq_none_iff, List.find?_eq_none] at h
  exact fun e he => by simpa using h e he

theorem FdTable.mem_add {t : FdTable} {fd : Nat} {m : FdAccess} {e : Nat × FdAccess} (h : e ∈ FdTable.add t fd m) :
    e = (fd, m) ∨ e ∈ t := by
  induction t with
  | nil => exact .inl (List.mem_singleton.mp h)
  | cons d t ih =>
    unfold FdTable.add at h
    split at h
    · exact List.mem_cons.mp h
    · rcases List.mem_cons.mp h with rfl | h
      · exact .inr List.mem_cons_self
      · exact (ih h).imp_right (List.mem_cons_of_mem d)

/-- Adding a number that is not in the table keeps the numbers rising. -/
theorem FdTable.pairwise_add {t : FdTable} {fd : Nat} (m : FdAccess) (hr : t.Pairwise fun a b => a.1 < b.1)
    (hf : ∀ e ∈ t, e.1 ≠ fd) : (FdTable.add t fd m).Pairwise fun a b => a.1 < b.1 := by
  induction t with
  | nil => exact List.pairwise_singleton _ _
  | cons d t ih =>
    obtain ⟨hd, ht⟩ := List.pairwise_cons.mp hr
    unfold FdTable.add
    split
    · next hlt =>
      refine List.pairwise_cons.mpr ⟨fun e he => ?_, hr⟩
      rcases List.mem_cons.mp he with rfl | he
      · exact hlt
      · exact Nat.lt_trans hlt (hd e he)
    · next hge =>
      refine List.pairwise_cons.mpr ⟨fun e he => ?_, ih ht fun e he => hf e (List.mem_cons_of_mem d he)⟩
      rcases FdTable.mem_add he with rfl | he
      · have := hf d List.mem_cons_self
        show d.1 < fd
        omega
      · exact hd e he

/-- A number from 3 up is added behind the reserved descriptors. -/
theorem FdTable.add_reserved (rest : FdTable) {fd : Nat} (m : FdAccess) (h : 3 ≤ fd) :
    FdTable.add (fdsAtReset ++ rest) fd m = fdsAtReset ++ FdTable.add rest fd m := by
  simp only [fdsAtReset, List.cons_append, List.nil_append, FdTable.add]
  rw [if_neg (by omega), if_neg (by omega), if_neg (by omega)]

/-- A number from 3 up is none of the reserved descriptors (46/R380). -/
theorem FdTable.drop_reserved (rest : FdTable) {fd : Nat} (h : 3 ≤ fd) :
    FdTable.drop (fdsAtReset ++ rest) fd = fdsAtReset ++ FdTable.drop rest fd := by
  unfold FdTable.drop
  rw [List.filter_append, List.filter_eq_self.mpr]
  intro e he
  simp only [fdsAtReset, List.mem_cons, List.not_mem_nil, or_false] at he
  rcases he with rfl | rfl | rfl <;> simp <;> omega

theorem FdTable.wf_add {t : FdTable} {fd : Nat} (m : FdAccess) (hw : FdTable.wf t) (h3 : 3 ≤ fd)
    (hf : FdTable.find t fd = none) : FdTable.wf (FdTable.add t fd m) := by
  obtain ⟨hr, rest, rfl⟩ := hw
  exact ⟨FdTable.pairwise_add m hr (FdTable.ne_of_find_none hf), _, FdTable.add_reserved rest m h3⟩

theorem FdTable.wf_drop {t : FdTable} {fd : Nat} (hw : FdTable.wf t) (h3 : 3 ≤ fd) :
    FdTable.wf (FdTable.drop t fd) := by
  obtain ⟨hr, rest, rfl⟩ := hw
  exact ⟨hr.filter _, _, FdTable.drop_reserved rest h3⟩

theorem FdTable.wf_fdsAtReset : FdTable.wf fdsAtReset := ⟨by decide, [], rfl⟩

theorem DescriptorEffect.wf {t u : FdTable} (h : DescriptorEffect t u) (hw : FdTable.wf t) : FdTable.wf u := by
  rcases h with rfl | ⟨m, rfl⟩ | ⟨fd, h3, rfl⟩
  · exact hw
  · obtain ⟨h3, hfree, _⟩ := FdTable.lowestFree_spec t
    exact FdTable.wf_add m hw h3 hfree
  · exact FdTable.wf_drop hw h3

/-! ### After a load -/

/-- The flags of the six segments at reset (20/R63). -/
theorem noWX_segmentsAtReset (i : Executable) (stackSize gap : Nat) :
    ∀ g ∈ (segmentsAtReset i stackSize gap).all, (g.w && g.x) = false := by
  intro g hg
  simp only [SegmentMap.all, List.mem_cons, List.not_mem_nil, or_false] at hg
  rcases hg with rfl | rfl | rfl | rfl | rfl | rfl <;> rfl

/-- The draw is reduced so that the heap begins below the stack (20/R66, Log 3). -/
theorem heapBase_lt {i : Executable} {stackSize : Nat} (gap : Nat) (h : i.top < (stackSegment stackSize).min) :
    heapBase i stackSize gap < (stackSegment stackSize).min := by
  have := Nat.mod_lt gap (Nat.sub_pos_of_lt h)
  unfold heapBase
  omega

theorem inv_load {i : Executable} {stackSize gap : Nat} (oracle : List HostAnswer) (h : i.Loads stackSize gap) :
    (State.load i stackSize gap oracle).Inv where
  memory := memoryAtReset_wf i
  disjoint := h.disjoint
  noWX := noWX_segmentsAtReset i stackSize gap
  heapBelowStack := Nat.le_of_lt (heapBase_lt gap h.below)
  kernel := rfl
  descriptors := FdTable.wf_fdsAtReset

/-- The empty executable loads at every draw of the heap gap: of its segments only the stack has bytes. -/
theorem Executable.empty_loads (gap : Nat) : Executable.empty.Loads config.stackSize gap where
  disjoint := by
    rw [SegmentMap.disjoint_iff]
    simp [SegmentMap.all, segmentsAtReset, loadedSegment, Executable.empty]
  fits b hb := by
    simp only [Executable.images, List.mem_cons, List.not_mem_nil, or_false] at hb
    rcases hb with rfl | rfl | rfl | rfl <;> exact Nat.le_refl 0
  below := by decide

/-- Settles O4: the parts of the invariant one by one; the reset state is the load of the empty executable. -/
theorem loadedInvariant : Obligations.LoadedInvariant :=
  ⟨fun _ _ _ oracle h => inv_load oracle h, inv_load [] (Executable.empty_loads config.heapGap)⟩

/-! ### After a step -/

namespace MemoryEffect

variable {s t : State} (h : MemoryEffect s t)
include h

theorem wf_mem (hw : Memory.wf s.mem) : Memory.wf t.mem := by
  cases h with
  | kept hm _ => rwa [hm]
  | stored a n w _ hm _ => rw [hm]; exact Memory.wf_store s.mem hw a.toNat n w
  | buffer a bs _ hm _ => rw [hm]; exact wf_writeAll bs s.mem a hw
  | grown n _ _ _ hm _ => rw [hm]; exact Memory.wf_clear s.mem hw _ _

/-- The segment table stays, or its heap grows below the stack and into no other segment (46/R373). -/
theorem segments_cases : t.segments = s.segments ∨
    ∃ n, s.brk + n ≤ s.segments.stack.min ∧ meetsOther s.segments s.brk n = false ∧
      t.segments = { s.segments with heap := s.segments.heap.extend n } := by
  cases h with
  | kept _ hs => exact .inl hs
  | stored _ _ _ _ _ hs => exact .inl hs
  | buffer _ _ _ _ hs => exact .inl hs
  | grown n _ hk ho _ hs => exact .inr ⟨n, hk, ho, hs⟩

theorem disjoint (hd : s.segments.disjoint = true) : t.segments.disjoint = true := by
  rcases h.segments_cases with hs | ⟨n, _, ho, hs⟩ <;> rw [hs]
  · exact hd
  · exact disjoint_of_grown hd ho

theorem noWX (hw : ∀ g ∈ s.segments.all, (g.w && g.x) = false) : ∀ g ∈ t.segments.all, (g.w && g.x) = false := by
  rcases h.segments_cases with hs | ⟨n, _, _, hs⟩ <;> rw [hs]
  · exact hw
  · intro g hg
    rcases (SegmentMap.mem_all_iff _ g).mp hg with hother | rfl
    · exact hw g ((s.segments.mem_all_iff g).mpr (.inl hother))
    · exact hw s.segments.heap ((s.segments.mem_all_iff _).mpr (.inr rfl))

theorem heapBelowStack (hb : s.brk ≤ s.segments.stack.min) : t.brk ≤ t.segments.stack.min := by
  rcases h.segments_cases with hs | ⟨n, hk, _, hs⟩
  · unfold State.brk
    rwa [hs]
  · unfold State.brk Segment.limit at hk ⊢
    rw [hs]
    simp only [Segment.extend]
    omega

end MemoryEffect

/-- Settles O5: memory and the segment table by what a step can do to them, the descriptor table likewise, and the
kernel bank because no step changes it. -/
theorem stepKeepsInvariant : Obligations.StepKeepsInvariant := by
  intro s t hinv hstep
  obtain ⟨hmem, hfds⟩ := step_storage hstep
  exact {
    memory := hmem.wf_mem hinv.memory
    disjoint := hmem.disjoint hinv.disjoint
    noWX := hmem.noWX hinv.noWX
    heapBelowStack := hmem.heapBelowStack hinv.heapBelowStack
    kernel := (step_kernel hstep).trans hinv.kernel
    descriptors := hfds.wf hinv.descriptors }

end Sys2Proof.Machine
end

section
/-! PROOFS. The decoder and the encoder (30/R100 to R116, R120): which words decode, that decoding and encoding are
inverse, and what a step does with the word it fetches. -/

namespace Sys2Proof.Machine

/-! ### The format of an instruction -/

/-- An instruction of one of the four formats: its operands, that `encode` puts them into a word of the format with the
numbers of the instruction's row, and that reading them from any word that has them gives the instruction back. -/
inductive Formatted (i : Instr) : Prop where
  | formatR (rs rt rd : RegNum) (format : (config.itable i.mnemonic).format = .R)
      (word : encode i = encodeR i.mnemonic rs rt rd)
      (read : ∀ w, rsOf w = rs → rtOf w = rt → rdOf w = rd → i.mnemonic.read w = i)
  | formatI (rs rt : RegNum) (imm : BitVec 15) (format : (config.itable i.mnemonic).format = .I)
      (func : (config.itable i.mnemonic).func = 0)
      (word : encode i = encodeI i.mnemonic rs rt imm)
      (read : ∀ w, iRsOf w = rs → iRtOf w = rt → immOf w = imm → i.mnemonic.read w = i)
  | formatJ (addr : BitVec 25) (format : (config.itable i.mnemonic).format = .J)
      (func : (config.itable i.mnemonic).func = 0)
      (word : encode i = encodeJ i.mnemonic addr)
      (read : ∀ w, addrOf w = addr → i.mnemonic.read w = i)
  | formatEI (rd : RegNum) (imm : BitVec 16) (format : (config.itable i.mnemonic).format = .EI)
      (word : encode i = encodeEI i.mnemonic rd imm)
      (read : ∀ w, eiRdOf w = rd → eiImmOf w = imm → i.mnemonic.read w = i)

/-- Every instruction has one of the four formats (30/R112 to R115). -/
theorem formatted (i : Instr) : Formatted i := by
  cases i with
  | nop | syscall | j | jal =>
    exact .formatJ _ rfl rfl rfl (by rintro w rfl; rfl)
  | li0 | li1 | li2 | li3 =>
    exact .formatEI _ _ rfl rfl (by rintro w rfl rfl; rfl)
  | addi | addiu | addwi | addwiu | andi | andiu | ori | oriu | xori | xoriu | slti | sltiu | slli | srli | srai | sllwi
  | srlwi | srawi | lb | lbu | lh | lhu | lw | lwu | ld | sb | sh | sw | sd | vld | vst | beq | bne | blt | bge | bltu
  | bgeu =>
    exact .formatI _ _ _ rfl rfl rfl (by rintro w rfl rfl rfl; rfl)
  | _ =>
    exact .formatR _ _ _ rfl rfl (by rintro w rfl rfl rfl; rfl)

/-- The EI rows share the opcode 0x40, and their func fits the format's four bits (30/R115). -/
theorem row_of_formatEI {m : Mnemonic} (h : (config.itable m).format = .EI) :
    (config.itable m).opcode = 0x40#7 ∧ ∃ k : BitVec 4, (config.itable m).func = k.setWidth 10 := by
  cases m with
  | li0 => exact ⟨rfl, 0, rfl⟩
  | li1 => exact ⟨rfl, 1, rfl⟩
  | li2 => exact ⟨rfl, 2, rfl⟩
  | li3 => exact ⟨rfl, 3, rfl⟩
  | _ => cases h

/-- The four bits of an EI func survive the widening to the width of the table's column. -/
theorem setWidth_four_ten (k : BitVec 4) : (k.setWidth 10).setWidth 4 = k := by
  rw [BitVec.setWidth_setWidth_of_le k (by decide), BitVec.setWidth_eq]

/-! ### Round trip (30/R120) -/

/-- The word of an instruction has the opcode and func of its row, so it selects the row, and the fields read from it
are the operands. -/
theorem decode_encode (i : Instr) : decode (encode i) = .ok i := by
  cases formatted i with
  | formatR rs rt rd format word read =>
    rw [word, encodeR, decode_of_row i.mnemonic (opcodeOf_rWord ..) (by rw [format]; exact funcOf_rWord ..),
      read _ (rsOf_rWord ..) (rtOf_rWord ..) (rdOf_rWord ..)]
  | formatI rs rt imm format func word read =>
    rw [word, encodeI, decode_of_row i.mnemonic (opcodeOf_iWord ..) (by rw [format, func]; rfl),
      read _ (iRsOf_iWord ..) (iRtOf_iWord ..) (immOf_iWord ..)]
  | formatJ addr format func word read =>
    rw [word, encodeJ, decode_of_row i.mnemonic (opcodeOf_jWord ..) (by rw [format, func]; rfl),
      read _ (addrOf_jWord ..)]
  | formatEI rd imm format word read =>
    obtain ⟨-, k, func⟩ := row_of_formatEI format
    have hfunc : Format.EI.funcIn (eiWord (config.itable i.mnemonic).opcode rd k imm) = k.setWidth 10 :=
      congrArg (·.setWidth 10) (eiFuncOf_eiWord ..)
    rw [word, encodeEI, func, setWidth_four_ten,
      decode_of_row i.mnemonic (opcodeOf_eiWord ..) (by rw [format, func]; exact hfunc),
      read _ (eiRdOf_eiWord ..) (eiImmOf_eiWord ..)]

/-- A word that decodes has the opcode and func of a row, and a word is its fields. -/
theorem encode_of_decode {w : InstrWord} {i : Instr} (h : decode w = .ok i) : encode i = w := by
  obtain ⟨m, rfl, opcode, func⟩ := decode_eq_ok h
  rw [encode_read]
  cases format : (config.itable m).format with
  | R => rw [format] at func; rw [opcode, func]; exact rWord_fields w
  | I => rw [opcode]; exact iWord_fields w
  | J => rw [opcode]; exact jWord_fields w
  | EI =>
    rw [format] at func
    rw [opcode, func, Format.funcIn, setWidth_four_ten]
    exact eiWord_fields w

/-- An opcode at its place in the word, as a number. -/
theorem toNat_opcode_shifted (op : BitVec 7) : (op.setWidth 32 <<< 25).toNat = op.toNat * 2 ^ 25 := by
  have := op.isLt
  rw [BitVec.toNat_shiftLeft, BitVec.toNat_setWidth, Nat.shiftLeft_eq]
  omega

/-- The word of an instruction is the spec's formula for its row (30/R112 to R115). -/
theorem ofFormat_encode (i : Instr) : OfFormat i.mnemonic (encode i) := by
  unfold OfFormat
  cases formatted i with
  | formatR rs rt rd format word _ =>
    rw [format, word]
    exact ⟨rs, rt, rd, rWord_eq_wordR _ _ rs rt rd _ _ (toNat_opcode_shifted _) rfl⟩
  | formatI rs rt imm format _ word _ =>
    rw [format, word]
    exact ⟨rs, rt, imm, iWord_eq_wordI _ rs rt imm _ rfl⟩
  | formatJ addr format _ word _ =>
    rw [format, word]
    exact ⟨addr, jWord_eq_wordJ _ _ addr (toNat_opcode_shifted _)⟩
  | formatEI rd imm format word _ =>
    obtain ⟨opcode, k, func⟩ := row_of_formatEI format
    rw [format, word, encodeEI, opcode, func, setWidth_four_ten]
    exact ⟨rfl, rd, imm, eiWord_eq_wordEI rd k _ imm (BitVec.setWidth_setWidth (by decide))⟩

/-- Settles O11: each instruction has one of the four formats, and a word that decodes is put together again from its
fields. -/
theorem roundTrip : Obligations.RoundTrip :=
  ⟨decode_encode, fun _ _ h => encode_of_decode h, ofFormat_encode⟩

/-- Settles O13: each word is the one its instruction is encoded to. -/
theorem decodeExamples : Obligations.DecodeExamples :=
  ⟨decode_encode (.add 10 11 12), decode_encode (.addi 10 11 0x7FFF), decode_encode (.lb 10 11 0x7FFC),
    decode_encode (.j 0x100004), decode_encode (.vaddi32 1 2 3), decode_encode (.vld 10 1 32),
    decode_encode (.li0 10 0x1234), decode_encode (.syscall 0)⟩

/-! ### Legal words (30/R102, R112 to R116) -/

/-- The row has the word's opcode and the word's func, read as the row's format has it (30/R103, R106). -/
def RowSelects (w : InstrWord) (m : Mnemonic) : Prop :=
  (config.itable m).opcode = opcodeOf w ∧ (config.itable m).func = (config.itable m).format.funcIn w

/-- A word decodes exactly where a row of the table selects it. -/
theorem decodes_iff (w : InstrWord) : (∃ i, decode w = .ok i) ↔ ∃ m ∈ Mnemonic.all, RowSelects w m := by
  constructor
  · rintro ⟨i, h⟩
    obtain ⟨m, -, opcode, func⟩ := decode_eq_ok h
    exact ⟨m, mem_all m, opcode, func⟩
  · rintro ⟨m, -, opcode, func⟩
    exact ⟨m.read w, decode_of_row m opcode.symm func.symm⟩

/-- A number is in a column of some rows where it is in the list of the column's numbers. -/
theorem exists_mem_column_iff {n : Nat} (rows : List Mnemonic) (column : Mnemonic → BitVec n) (f : BitVec n) :
    (∃ m ∈ rows, column m = f) ↔ f.toNat ∈ rows.map fun m => (column m).toNat := by
  simp only [List.mem_map, BitVec.toNat_inj]

/-- Among rows of a format without a func, the opcode selects. -/
theorem exists_selects_of_no_func {rows : List Mnemonic} {f : Format} (hf : ∀ w, f.funcIn w = 0)
    (hrows : ∀ m ∈ rows, (config.itable m).format = f ∧ (config.itable m).func = 0) (w : InstrWord) :
    (∃ m ∈ rows, RowSelects w m) ↔ (opcodeOf w).toNat ∈ rows.map fun m => (config.itable m).opcode.toNat := by
  rw [← exists_mem_column_iff]
  refine exists_congr fun m => and_congr_right fun hm => ?_
  obtain ⟨format, func⟩ := hrows m hm
  rw [RowSelects, format, func, hf, and_iff_left rfl]

/-- Among rows of one format that share their opcode, the func selects. -/
theorem exists_selects_of_opcode {rows : List Mnemonic} {f : Format} {op : BitVec 7}
    (hrows : ∀ m ∈ rows, (config.itable m).format = f ∧ (config.itable m).opcode = op) (w : InstrWord) :
    (∃ m ∈ rows, RowSelects w m) ↔
      (opcodeOf w).toNat = op.toNat ∧ (f.funcIn w).toNat ∈ rows.map fun m => (config.itable m).func.toNat := by
  rw [← exists_mem_column_iff, BitVec.toNat_inj, ← exists_and_left]
  refine exists_congr fun m => ?_
  rw [and_left_comm]
  refine and_congr_right fun hm => ?_
  obtain ⟨format, opcode⟩ := hrows m hm
  rw [RowSelects, format, opcode, eq_comm]

/-! The five parts of the table: what their rows share, and the numbers they use, as the runs they form. -/

theorem legal_formatJ (w : InstrWord) :
    (∃ m ∈ Mnemonic.formatJ, RowSelects w m) ↔ (opcodeOf w).toNat ≤ 0x03 := by
  have opcodes : (Mnemonic.formatJ.map fun m => (config.itable m).opcode.toNat) = List.range' 0x00 4 := rfl
  rw [exists_selects_of_no_func (f := .J) (fun _ => rfl) (by decide), opcodes, List.mem_range'_1]
  omega

theorem legal_formatI (w : InstrWord) :
    (∃ m ∈ Mnemonic.formatI, RowSelects w m) ↔
      (0x10 ≤ (opcodeOf w).toNat ∧ (opcodeOf w).toNat ≤ 0x21) ∨
      (0x28 ≤ (opcodeOf w).toNat ∧ (opcodeOf w).toNat ≤ 0x2E) ∨
      (0x30 ≤ (opcodeOf w).toNat ∧ (opcodeOf w).toNat ≤ 0x35) ∨
      (0x38 ≤ (opcodeOf w).toNat ∧ (opcodeOf w).toNat ≤ 0x3D) := by
  have opcodes : (Mnemonic.formatI.map fun m => (config.itable m).opcode.toNat) =
      List.range' 0x10 18 ++ List.range' 0x28 7 ++ List.range' 0x30 6 ++ List.range' 0x38 6 := rfl
  rw [exists_selects_of_no_func (f := .I) (fun _ => rfl) (by decide), opcodes]
  simp only [List.mem_append, List.mem_range'_1]
  omega

theorem legal_scalarR (w : InstrWord) :
    (∃ m ∈ Mnemonic.scalarR, RowSelects w m) ↔
      (opcodeOf w).toNat = 0x08 ∧ ((funcOf w).toNat ≤ 0x1B ∨
        (0x20 ≤ (funcOf w).toNat ∧ (funcOf w).toNat ≤ 0x21) ∨
        (0x30 ≤ (funcOf w).toNat ∧ (funcOf w).toNat ≤ 0x36) ∨
        (0x38 ≤ (funcOf w).toNat ∧ (funcOf w).toNat ≤ 0x3B)) := by
  have funcs : (Mnemonic.scalarR.map fun m => (config.itable m).func.toNat) =
      List.range' 0x00 28 ++ List.range' 0x20 2 ++ List.range' 0x30 7 ++ List.range' 0x38 4 := rfl
  rw [exists_selects_of_opcode (f := .R) (op := 0x08) (by decide), funcs]
  simp only [List.mem_append, List.mem_range'_1]
  exact and_congr Iff.rfl (by rw [Format.funcIn]; omega)

theorem legal_vectorR (w : InstrWord) :
    (∃ m ∈ Mnemonic.vectorR, RowSelects w m) ↔
      (opcodeOf w).toNat = 0x09 ∧ ((funcOf w).toNat ≤ 0x13 ∨
        (0x20 ≤ (funcOf w).toNat ∧ (funcOf w).toNat ≤ 0x25) ∨
        (0x28 ≤ (funcOf w).toNat ∧ (funcOf w).toNat ≤ 0x2D) ∨
        (0x30 ≤ (funcOf w).toNat ∧ (funcOf w).toNat ≤ 0x37) ∨
        (0x40 ≤ (funcOf w).toNat ∧ (funcOf w).toNat ≤ 0x43) ∨
        (0x48 ≤ (funcOf w).toNat ∧ (funcOf w).toNat ≤ 0x4B) ∨
        (0x50 ≤ (funcOf w).toNat ∧ (funcOf w).toNat ≤ 0x53) ∨
        (0x58 ≤ (funcOf w).toNat ∧ (funcOf w).toNat ≤ 0x59)) := by
  have funcs : (Mnemonic.vectorR.map fun m => (config.itable m).func.toNat) =
      List.range' 0x00 20 ++ List.range' 0x20 6 ++ List.range' 0x28 6 ++ List.range' 0x30 8 ++ List.range' 0x40 4 ++
        List.range' 0x48 4 ++ List.range' 0x50 4 ++ List.range' 0x58 2 := rfl
  rw [exists_selects_of_opcode (f := .R) (op := 0x09) (by decide), funcs]
  simp only [List.mem_append, List.mem_range'_1]
  exact and_congr Iff.rfl (by rw [Format.funcIn]; omega)

theorem legal_formatEI (w : InstrWord) :
    (∃ m ∈ Mnemonic.formatEI, RowSelects w m) ↔ (opcodeOf w).toNat = 0x40 ∧ (eiFuncOf w).toNat ≤ 3 := by
  have funcs : (Mnemonic.formatEI.map fun m => (config.itable m).func.toNat) = List.range' 0x000 4 := rfl
  have wide : (Format.EI.funcIn w).toNat = (eiFuncOf w).toNat := BitVec.toNat_setWidth_of_le (by decide)
  rw [exists_selects_of_opcode (f := .EI) (op := 0x40) (by decide), funcs, wide, List.mem_range'_1]
  exact and_congr Iff.rfl (by omega)

/-! The fields as the statement cuts them out of the word. -/

theorem toNat_shift_opcode (w : InstrWord) : (w >>> 25).toNat = (opcodeOf w).toNat := by
  have := w.isLt
  rw [toNat_opcodeOf, BitVec.toNat_ushiftRight, Nat.shiftRight_eq_div_pow]
  omega

theorem toNat_mask_func (w : InstrWord) : (w &&& 0x3FF#32).toNat = (funcOf w).toNat := by
  rw [toNat_funcOf, pow_zero, Nat.div_one, BitVec.toNat_and]
  exact Nat.and_two_pow_sub_one_eq_mod w.toNat 10

theorem toNat_mask_eiFunc (w : InstrWord) : ((w >>> 16) &&& 0xF#32).toNat = (eiFuncOf w).toNat := by
  rw [toNat_eiFuncOf, BitVec.toNat_and, BitVec.toNat_ushiftRight, Nat.shiftRight_eq_div_pow]
  exact Nat.and_two_pow_sub_one_eq_mod (w.toNat / 2 ^ 16) 4

/-- Settles O12: the table is its five parts, and each part's rows select the words with the numbers they use. -/
theorem legalWords : Obligations.LegalWords := by
  intro w
  rw [decodes_iff, Mnemonic.all]
  simp only [List.mem_append, or_and_right, exists_or, toNat_shift_opcode, toNat_mask_func, toNat_mask_eiFunc]
  rw [legal_formatJ, legal_scalarR, legal_vectorR, legal_formatI, legal_formatEI]
  simp only [or_assoc]

/-! ### Fetch and decode of a step (30/R100 steps 1 to 7) -/

/-- The fetch answers the word at `pc` where it may be fetched. -/
theorem memFetch_of_holdsValue {s : State} {a : Word} {w : InstrWord} (ha : Accessible s .fetch a 4)
    (hw : HoldsValue s a.toNat 4 w) : s.memFetch a = .ok w :=
  (memFetch_ok ha).trans (congrArg Except.ok hw.eq_load)

section Ready
variable {s : State} (hr : s.op = .ready)
include hr

theorem step_of_memFetch_error {c : Condition} (hf : s.memFetch s.pc = .error c) : step s = .next (s.raise c) := by
  unfold step State.fetchDecode
  rw [hr]
  simp only [hf]

theorem step_of_decode_error {w : InstrWord} {e : DecodeReject} (hf : s.memFetch s.pc = .ok w)
    (hd : decode w = .error e) : step s = .next ((s.setPc (s.pc + 4#64)).raise (.decodeError w)) := by
  unfold step State.fetchDecode
  rw [hr]
  simp only [hf, hd]

theorem step_of_decode_ok {w : InstrWord} {i : Instr} (hf : s.memFetch s.pc = .ok w) (hd : decode w = .ok i) :
    step s = exec i (s.setPc (s.pc + 4#64)) := by
  unfold step State.fetchDecode
  rw [hr]
  simp only [hf, hd]

end Ready

/-- Settles O10: `raise` changes the operational state only, and `pc` is advanced between the fetch and the decode. -/
theorem fetchAndDecodeFaults : Obligations.FetchAndDecodeFaults := fun _ hr =>
  ⟨fun _ hf => step_of_memFetch_error hr (memFetch_error hf),
    fun _ _ ha hw hd => step_of_decode_error hr (memFetch_of_holdsValue ha hw) hd⟩

/-- Settles O9: the word that lies at `pc` is the one fetched. -/
theorem stepRunsDecoded : Obligations.StepRunsDecoded := fun _ _ _ hr ha hw hd =>
  step_of_decode_ok hr (memFetch_of_holdsValue ha hw) hd

end Sys2Proof.Machine
end

section
/-! PROOFS. The scalar register-register instructions (40_scalar_alu.md): what they compute, as the spec writes it, and
that they write their destination and nothing else. -/

namespace Sys2Proof.Machine

/-! ### Words of the R format (30/R112, R113) -/

/-- The word of an R instruction by the spec's formula, from the numbers of its row. -/
theorem encodeR_eq_wordR {m : Mnemonic} {base func : InstrWord}
    (hbase : (config.itable m).opcode.setWidth 32 <<< 25 = base) (hfunc : (config.itable m).func.setWidth 32 = func)
    {rs rt rd : RegNum} : encodeR m rs rt rd = wordR base rs rt rd func := by
  subst hbase
  exact rWord_eq_wordR _ _ rs rt rd _ _ (toNat_opcode_shifted _) hfunc.symm

/-! ### What an instruction of each form leaves -/

/-- An operation on two sources writes its result, under any name for it, and nothing else (40/R140). -/
theorem exec_regOp {i : Instr} {s : State} {f : Word → Word → Word} {rs rt rd : RegNum} {w : Word}
    (hexec : exec i s = .next (regOp f rs rt rd s)) (hresult : f (s.readX rs) (s.readX rt) = w) :
    ∃ t, exec i s = .next t ∧ WritesX s t rd w 0 := by
  subst hresult
  exact ⟨_, hexec, writesX_writeX s rd _⟩

/-- `hi` and `lo` hold the halves of a product (40/R143). -/
theorem exec_writeProduct {i : Instr} {s : State} {p : BitVec 128} (hexec : exec i s = .next (writeProduct p s)) :
    ∃ t h l, exec i s = .next t ∧ WritesHiLo s t h l ∧ h ++ l = p :=
  ⟨_, _, _, hexec, writesHiLo_setHiLo s _ _, BitVec.extractLsb'_append_extractLsb' (w := 64) (len := 64)⟩

/-- `hi` and `lo` hold the halves of a 64-bit product, each sign-extended (40/R141, R150). -/
theorem exec_writeProductW {i : Instr} {s : State} {p : BitVec 64} (hexec : exec i s = .next (writeProductW p s)) :
    ∃ t, exec i s = .next t ∧
      WritesHiLo s t ((p.extractLsb' 32 32).signExtend 64) ((p.extractLsb' 0 32).signExtend 64) :=
  ⟨_, hexec, writesHiLo_setHiLo s _ _⟩

section DivideOp
variable {i : Instr} {s : State} {w : Nat} {widen : BitVec w → Word} {result : Option (BitVec w × BitVec w)}

/-- A division with a result writes the remainder to `hi` and the quotient to `lo` (40/R143). -/
theorem exec_divideOp_some {q r : BitVec w} (hexec : exec i s = .next (divideOp i widen result s))
    (hresult : result = some (q, r)) : ∃ t, exec i s = .next t ∧ WritesHiLo s t (widen r) (widen q) := by
  subst hresult
  exact ⟨_, hexec, writesHiLo_setHiLo s _ _⟩

/-- A division without a result raises `ArithFault` with the instruction's word (40/R143, 60/R418). -/
theorem exec_divideOp_none (hexec : exec i s = .next (divideOp i widen result s)) (hresult : result = none) :
    exec i s = .next { s with op := .faulted (.arithFault (encode i)) } := by
  subst hresult
  exact hexec

end DivideOp

/-! ### Compares (40/R170, R171) -/

theorem zeroOne_signedLess {w : Nat} (n : Nat) (a b : BitVec w) :
    zeroOne n (signedLess a b) = if a.toInt < b.toInt then 1#n else 0#n := by
  simp only [zeroOne, signedLess, BitVec.slt_iff_toInt_lt]

theorem zeroOne_unsignedLess {w : Nat} (n : Nat) (a b : BitVec w) :
    zeroOne n (unsignedLess a b) = if a.toNat < b.toNat then 1#n else 0#n := by
  simp only [zeroOne, unsignedLess, BitVec.ult_eq_decide, decide_eq_true_eq]

/-! ### Shift counts (40/R142) -/

/-- A count is taken modulo the width, the value of `SHIFT_OVER` (Log 16). -/
theorem shiftCount_eq_mod (w c : Nat) : shiftCount w c = c % w := rfl

/-- The count modulo a width of `2 ^ n` is the number in its low `n` bits. -/
theorem shiftCount_two_pow (n : Nat) {m : Nat} (c : BitVec m) :
    shiftCount (2 ^ n) c.toNat = (c.extractLsb' 0 n).toNat := by
  rw [shiftCount_eq_mod, BitVec.extractLsb'_toNat, Nat.shiftRight_zero]

/-- Both widths of the scalar shifts are powers of two. -/
theorem shiftCount_64 (c : Word) : shiftCount 64 c.toNat = (c.extractLsb' 0 6).toNat := shiftCount_two_pow 6 c
theorem shiftCount_32 (c : Word) : shiftCount 32 c.toNat = (c.extractLsb' 0 5).toNat := shiftCount_two_pow 5 c

/-! ### Products are exact in twice the width (40/R143) -/

theorem toNat_ofNat_mul {w : Nat} (a b : BitVec w) :
    (BitVec.ofNat (w * 2) (a.toNat * b.toNat)).toNat = a.toNat * b.toNat := by
  rw [BitVec.toNat_ofNat, Nat.mod_eq_of_lt BitVec.toNat_mul_toNat_lt]

theorem toInt_ofInt_mul {w : Nat} (hw : 0 < w) (a b : BitVec w) :
    (BitVec.ofInt (w * 2) (a.toInt * b.toInt)).toInt = a.toInt * b.toInt := by
  have hpow : (2 : Int) ^ (w * 2 - 2) < 2 ^ (w * 2 - 1) := Int.pow_lt_pow_of_lt (by omega) (by omega)
  have hlow := BitVec.le_toInt_mul_toInt (x := a) (y := b)
  have hhigh := BitVec.toInt_mul_toInt_le (x := a) (y := b)
  exact BitVec.toInt_ofInt_eq_self (by omega) (by omega) (by omega)

/-! ### Quotients and remainders (40/R143) -/

/-- When a signed division has no result, in the values of the operands. -/
theorem signedDivFaults_iff {w : Nat} (hw : 0 < w) (a b : BitVec w) :
    signedDivFaults a b = true ↔ b.toInt = 0 ∨ (a.toInt = -2 ^ (w - 1) ∧ b.toInt = -1) := by
  have hzero : b.toInt = 0 ↔ b = 0#w := by rw [← BitVec.toInt_inj, BitVec.toInt_zero]
  have hmin : a.toInt = -2 ^ (w - 1) ↔ a = BitVec.intMin w := by
    rw [← BitVec.toInt_inj, BitVec.toInt_intMin_of_pos hw]
  have hneg : b.toInt = -1 ↔ b = BitVec.allOnes w := by rw [← BitVec.toInt_inj, BitVec.toInt_allOnes, if_pos hw]
  rw [hzero, hmin, hneg]
  simp only [signedDivFaults, Bool.or_eq_true, Bool.and_eq_true, beq_iff_eq]

/-- The truncated quotient and remainder are the ones of the library. -/
theorem quotientSigned_eq_sdiv {w : Nat} (a b : BitVec w) : quotientSigned a b = a.sdiv b := by
  apply BitVec.eq_of_toInt_eq
  rw [quotientSigned, BitVec.toInt_ofInt, BitVec.toInt_sdiv]

theorem remainderSigned_eq_srem {w : Nat} (a b : BitVec w) : remainderSigned a b = a.srem b := by
  rw [remainderSigned, Int.mul_comm, ← Int.tmod_def, ← BitVec.toInt_srem, BitVec.ofInt_toInt]

/-- The quotient is out of range only where the most negative value is divided by -1. -/
theorem toInt_quotientSigned {w : Nat} {a b : BitVec w} (h : signedDivFaults a b = false) :
    (quotientSigned a b).toInt = a.toInt.tdiv b.toInt := by
  rw [quotientSigned_eq_sdiv]
  apply BitVec.toInt_sdiv_of_ne_or_ne
  rw [BitVec.neg_one_eq_allOnes, ← not_and_or]
  rintro ⟨rfl, rfl⟩
  simp [signedDivFaults] at h

theorem toInt_remainderSigned {w : Nat} (a b : BitVec w) :
    (remainderSigned a b).toInt = a.toInt - a.toInt.tdiv b.toInt * b.toInt := by
  rw [remainderSigned_eq_srem, BitVec.toInt_srem, Int.tmod_def, Int.mul_comm]

theorem toNat_quotientUnsigned {w : Nat} (a b : BitVec w) : (quotientUnsigned a b).toNat = a.toNat / b.toNat := by
  rw [quotientUnsigned, BitVec.toNat_ofNat, Nat.mod_eq_of_lt (Nat.lt_of_le_of_lt (Nat.div_le_self _ _) a.isLt)]

theorem toNat_remainderUnsigned {w : Nat} (a b : BitVec w) : (remainderUnsigned a b).toNat = a.toNat % b.toNat := by
  rw [remainderUnsigned, BitVec.toNat_ofNat, Nat.mod_eq_of_lt (Nat.lt_of_le_of_lt (Nat.mod_le _ _) a.isLt)]

/-- Everything a signed divide does, at either width. -/
theorem exec_divideSigned {i : Instr} {s : State} {w : Nat} {widen : BitVec w → Word} {a b : BitVec w} (hw : 0 < w)
    (hexec : exec i s = .next (divideOp i widen (divideSigned a b) s)) :
    (¬(b.toInt = 0 ∨ (a.toInt = -2 ^ (w - 1) ∧ b.toInt = -1)) →
      ∃ t q r, exec i s = .next t ∧ WritesHiLo s t (widen r) (widen q) ∧ q.toInt = Int.tdiv a.toInt b.toInt ∧
        r.toInt = a.toInt - Int.tdiv a.toInt b.toInt * b.toInt) ∧
    (b.toInt = 0 ∨ (a.toInt = -2 ^ (w - 1) ∧ b.toInt = -1) →
      exec i s = .next { s with op := .faulted (.arithFault (encode i)) }) := by
  rw [← signedDivFaults_iff hw, Bool.not_eq_true]
  constructor
  · intro h
    obtain ⟨t, ht, hwrites⟩ := exec_divideOp_some hexec (divideSigned_result h)
    exact ⟨t, _, _, ht, hwrites, toInt_quotientSigned h, toInt_remainderSigned a b⟩
  · intro h
    exact exec_divideOp_none hexec (divideSigned_faults h)

/-- Everything an unsigned divide does, at either width. -/
theorem exec_divideUnsigned {i : Instr} {s : State} {w : Nat} {widen : BitVec w → Word} {a b : BitVec w}
    (hexec : exec i s = .next (divideOp i widen (divideUnsigned a b) s)) :
    (b.toNat ≠ 0 →
      ∃ t q r, exec i s = .next t ∧ WritesHiLo s t (widen r) (widen q) ∧ q.toNat = a.toNat / b.toNat ∧
        r.toNat = a.toNat % b.toNat) ∧
    (b.toNat = 0 → exec i s = .next { s with op := .faulted (.arithFault (encode i)) }) := by
  constructor
  · intro h
    have hb : b ≠ 0#w := by rintro rfl; exact h rfl
    obtain ⟨t, ht, hwrites⟩ := exec_divideOp_some hexec (divideUnsigned_result a hb)
    exact ⟨t, _, _, ht, hwrites, toNat_quotientUnsigned a b, toNat_remainderUnsigned a b⟩
  · intro h
    obtain rfl : b = 0#w := BitVec.eq_of_toNat_eq h
    exact exec_divideOp_none hexec (divideUnsigned_faults a)

/-! ### The instructions -/

/-- Settles O14: each is an operation on two sources. -/
theorem addAndSubtract : Obligations.AddAndSubtract := fun _ _ _ _ =>
  ⟨⟨encodeR_eq_wordR rfl rfl, exec_regOp rfl rfl⟩, ⟨encodeR_eq_wordR rfl rfl, exec_regOp rfl rfl⟩,
    ⟨encodeR_eq_wordR rfl rfl, exec_regOp rfl rfl⟩, ⟨encodeR_eq_wordR rfl rfl, exec_regOp rfl rfl⟩⟩

/-- Settles O15: each is an operation on two sources; the compares by the relations of the operands' values. -/
theorem logicAndCompare : Obligations.LogicAndCompare := fun _ _ _ _ =>
  ⟨⟨encodeR_eq_wordR rfl rfl, exec_regOp rfl rfl⟩, ⟨encodeR_eq_wordR rfl rfl, exec_regOp rfl rfl⟩,
    ⟨encodeR_eq_wordR rfl rfl, exec_regOp rfl rfl⟩, ⟨encodeR_eq_wordR rfl rfl, exec_regOp rfl rfl⟩,
    ⟨encodeR_eq_wordR rfl rfl, exec_regOp rfl (zeroOne_signedLess 64 _ _)⟩,
    ⟨encodeR_eq_wordR rfl rfl, exec_regOp rfl (zeroOne_unsignedLess 64 _ _)⟩⟩

/-- Settles O16: each is an operation on two sources, with the count reduced modulo the width of what is shifted. -/
theorem registerShifts : Obligations.RegisterShifts := by
  intro _ _ _ _
  rw [← shiftCount_64, ← shiftCount_32]
  exact ⟨⟨encodeR_eq_wordR rfl rfl, exec_regOp rfl rfl⟩, ⟨encodeR_eq_wordR rfl rfl, exec_regOp rfl rfl⟩,
    ⟨encodeR_eq_wordR rfl rfl, exec_regOp rfl rfl⟩, ⟨encodeR_eq_wordR rfl rfl, exec_regOp rfl rfl⟩,
    ⟨encodeR_eq_wordR rfl rfl, exec_regOp rfl rfl⟩, ⟨encodeR_eq_wordR rfl rfl, exec_regOp rfl rfl⟩⟩

/-- Settles O17: the halves written are those of a word of twice the width, which holds the product exactly. -/
theorem multiply : Obligations.Multiply := by
  intro rs rt rd s
  refine ⟨⟨encodeR_eq_wordR rfl rfl, ?mult⟩, ⟨encodeR_eq_wordR rfl rfl, ?multu⟩,
    ⟨encodeR_eq_wordR rfl rfl, ?multw⟩, ⟨encodeR_eq_wordR rfl rfl, ?multuw⟩⟩
  case mult =>
    obtain ⟨t, h, l, ht, hwrites, hp⟩ := exec_writeProduct (i := .mult rs rt rd) (s := s) rfl
    exact ⟨t, h, l, ht, hwrites, hp ▸ toInt_ofInt_mul (by decide) _ _⟩
  case multu =>
    obtain ⟨t, h, l, ht, hwrites, hp⟩ := exec_writeProduct (i := .multu rs rt rd) (s := s) rfl
    exact ⟨t, h, l, ht, hwrites, hp ▸ toNat_ofNat_mul _ _⟩
  case multw =>
    obtain ⟨t, ht, hwrites⟩ := exec_writeProductW (i := .multw rs rt rd) (s := s) rfl
    exact ⟨t, _, ht, hwrites, toInt_ofInt_mul (by decide) _ _⟩
  case multuw =>
    obtain ⟨t, ht, hwrites⟩ := exec_writeProductW (i := .multuw rs rt rd) (s := s) rfl
    exact ⟨t, _, ht, hwrites, toNat_ofNat_mul _ _⟩

/-- Settles O18: two signed and two unsigned divides, of the registers and of their low words. -/
theorem divide : Obligations.Divide := fun _ _ _ _ =>
  ⟨⟨encodeR_eq_wordR rfl rfl, exec_divideSigned (by decide) rfl⟩,
    ⟨encodeR_eq_wordR rfl rfl, exec_divideUnsigned rfl⟩,
    ⟨encodeR_eq_wordR rfl rfl, exec_divideSigned (by decide) rfl⟩,
    ⟨encodeR_eq_wordR rfl rfl, exec_divideUnsigned rfl⟩⟩

/-- Settles O19: two writes of a general register, and two of `hi` and `lo` with one of them as it was. -/
theorem hiLoMoves : Obligations.HiLoMoves := fun rs _ rd s =>
  ⟨⟨encodeR_eq_wordR rfl rfl, _, rfl, writesX_writeX s rd s.hi⟩,
    ⟨encodeR_eq_wordR rfl rfl, _, rfl, writesX_writeX s rd s.lo⟩,
    ⟨encodeR_eq_wordR rfl rfl, _, rfl, writesHiLo_setHiLo s (s.readX rs) s.lo⟩,
    ⟨encodeR_eq_wordR rfl rfl, _, rfl, writesHiLo_setHiLo s s.hi (s.readX rs)⟩⟩

end Sys2Proof.Machine
end

section
/-! PROOFS. The scalar immediate instructions and the 16-bit slice loads (41_scalar_imm.md): what they compute, as
the spec writes it, that they write their destination and nothing else, and that the four slice loads of an address leave
the address. -/

namespace Sys2Proof.Machine

/-! ### Words of the I and EI formats (30/R114, R115) -/

/-- The word of an I instruction by the spec's formula, from the opcode of its row. -/
theorem encodeI_eq_wordI {m : Mnemonic} {opcode : InstrWord} (hopcode : (config.itable m).opcode.setWidth 32 = opcode)
    {rs rt : RegNum} {imm : BitVec 15} : encodeI m rs rt imm = wordI opcode rs rt imm :=
  iWord_eq_wordI _ rs rt imm opcode hopcode.symm

/-- The word of slice load `k` by the spec's formula, from the numbers of its row. -/
theorem encodeEI_eq_wordEI {m : Mnemonic} {k : InstrWord} (hopcode : (config.itable m).opcode = 0x40#7)
    (hfunc : ((config.itable m).func.setWidth 4).setWidth 32 = k) {rd : RegNum} {imm : BitVec 16} :
    encodeEI m rd imm = wordEI rd k imm := by
  rw [encodeEI, hopcode]
  exact eiWord_eq_wordEI rd _ k imm hfunc.symm

/-! ### What an instruction of each form leaves -/

/-- An operation on a source and an immediate writes its result, under any name for it, and nothing else (41/R181). -/
theorem exec_immOp {i : Instr} {s : State} {f : Word → Word} {rs rt : RegNum} {w : Word}
    (hexec : exec i s = .next (immOp f rs rt s)) (hresult : f (s.readX rs) = w) :
    ∃ t, exec i s = .next t ∧ WritesX s t rt w 0 := by
  subst hresult
  exact ⟨_, hexec, writesX_writeX s rt _⟩

/-- A slice load writes the word with the slice replaced, under any name for it, and nothing else (41/R200). -/
theorem exec_sliceOp {i : Instr} {s : State} {k : Nat} {rd : RegNum} {imm : BitVec 16} {w : Word}
    (hexec : exec i s = .next (sliceOp k rd imm s)) (hresult : insertSlice (s.readX rd) k imm = w) :
    ∃ t, exec i s = .next t ∧ WritesX s t rd w 0 := by
  subst hresult
  exact ⟨_, hexec, writesX_writeX s rd _⟩

/-! ### Immediates as numbers (41/R180) -/

theorem toInt_sextImm (imm : BitVec 15) : (sextImm imm).toInt = imm.toInt :=
  BitVec.toInt_signExtend_of_le (by decide)

theorem toNat_zextImm (imm : BitVec 15) : (zextImm imm).toNat = imm.toNat :=
  BitVec.toNat_setWidth_of_le (by decide)

/-! ### Slices of 16 bits (41/R200) -/

/-- The mask of slice `k` has the 16 bits of the slice. -/
theorem getLsbD_sliceMask (k : Nat) {i : Nat} (hi : i < 64) :
    (0xFFFF#64 <<< (16 * k)).getLsbD i = decide (i / 16 = k) := by
  have hones (j : Nat) : (0xFFFF#64).getLsbD j = decide (j < 16) := Nat.testBit_two_pow_sub_one 16 j
  rw [BitVec.getLsbD_shiftLeft, hones, Bool.eq_iff_iff]
  simp only [Bool.and_eq_true, Bool.not_eq_true', decide_eq_true_eq, decide_eq_false_iff_not]
  omega

/-- Bit `i` lies in slice `i / 16`, at place `i % 16`: it is replaced there and kept elsewhere. -/
theorem getLsbD_insertSlice (a : Word) (k : Nat) (imm : BitVec 16) {i : Nat} (hi : i < 64) :
    (insertSlice a k imm).getLsbD i = if i / 16 = k then imm.getLsbD (i % 16) else a.getLsbD i := by
  rw [insertSlice, BitVec.getLsbD_or, BitVec.getLsbD_and, BitVec.getLsbD_not, getLsbD_sliceMask k hi,
    BitVec.getLsbD_shiftLeft, BitVec.getLsbD_setWidth]
  split
  case isTrue hslice =>
    have hlow : ¬ i < 16 * k := by omega
    have hplace : i - 16 * k = i % 16 := by omega
    have hbound : i % 16 < 64 := by omega
    simp [hslice, hi, hlow, hplace, hbound]
  case isFalse hslice =>
    have houtside : i < 16 * k ∨ 16 ≤ i - 16 * k := by omega
    rcases houtside with hbelow | habove
    · simp [hslice, hi, hbelow]
    · simp [hslice, hi, BitVec.getLsbD_of_ge imm _ habove]

/-- The word with slice `k` replaced is the bits above the slice, the immediate and the bits below it. -/
theorem insertSlice_eq_append (a : Word) (k above : Nat) (imm : BitVec 16) (hwidth : above + 16 + 16 * k = 64) :
    insertSlice a k imm = (a.extractLsb' (16 * k + 16) above ++ imm ++ a.extractLsb' 0 (16 * k)).cast hwidth := by
  apply BitVec.eq_of_getLsbD_eq
  intro i hi
  rw [getLsbD_insertSlice a k imm hi, BitVec.getLsbD_cast, BitVec.getLsbD_append, BitVec.getLsbD_append,
    BitVec.getLsbD_extractLsb', BitVec.getLsbD_extractLsb']
  have hcases : i < 16 * k ∨ i / 16 = k ∨ 16 * k + 16 ≤ i := by omega
  rcases hcases with hbelow | hslice | habove
  · have hslice : i / 16 ≠ k := by omega
    simp [hslice, hbelow]
  · have hlow : ¬ i < 16 * k := by omega
    have hplace : i - 16 * k = i % 16 := by omega
    simp [hslice, hlow, hplace, Nat.mod_lt]
  · have hslice : i / 16 ≠ k := by omega
    have hlow : ¬ i < 16 * k := by omega
    have himm : ¬ i - 16 * k < 16 := by omega
    have hin : i - 16 * k - 16 < above := by omega
    have hplace : 16 * k + 16 + (i - 16 * k - 16) = i := by omega
    simp [hslice, hlow, himm, hin, hplace]

/-- The lowest slice has no bits below it. -/
theorem insertSlice_lowest (a : Word) (imm : BitVec 16) : insertSlice a 0 imm = a.extractLsb' 16 48 ++ imm :=
  (insertSlice_eq_append a 0 48 imm rfl).trans (BitVec.append_zero_width _ _)

/-- The highest slice has no bits above it. -/
theorem insertSlice_highest (a : Word) (imm : BitVec 16) : insertSlice a 3 imm = imm ++ a.extractLsb' 0 48 := by
  rw [insertSlice_eq_append a 3 0 imm rfl, BitVec.zero_width_append]
  rfl

/-- A slice of the word `b` put into its own place gives the bits of `b` there. -/
theorem getLsbD_insertSlice_extract (a b : Word) (k : Nat) {i : Nat} (hi : i < 64) :
    (insertSlice a k (b.extractLsb' (16 * k) 16)).getLsbD i = if i / 16 = k then b.getLsbD i else a.getLsbD i := by
  rw [getLsbD_insertSlice a k _ hi, BitVec.getLsbD_extractLsb']
  split
  · next h =>
    have hplace : 16 * k + i % 16 = i := by omega
    rw [hplace, decide_eq_true (Nat.mod_lt i (by decide)), Bool.true_and]
  · rfl

/-- The four slices of a word, each put into its place, make up the word. -/
theorem insertSlice_all (a b : Word) :
    insertSlice (insertSlice (insertSlice (insertSlice a 0 (b.extractLsb' 0 16)) 1 (b.extractLsb' 16 16))
      2 (b.extractLsb' 32 16)) 3 (b.extractLsb' 48 16) = b := by
  apply BitVec.eq_of_getLsbD_eq
  intro i hi
  rw [getLsbD_insertSlice_extract _ b 3 hi, getLsbD_insertSlice_extract _ b 2 hi, getLsbD_insertSlice_extract _ b 1 hi,
    getLsbD_insertSlice_extract _ b 0 hi]
  have hslice : i / 16 = 3 ∨ i / 16 = 2 ∨ i / 16 = 1 ∨ i / 16 = 0 := by omega
  rcases hslice with h | h | h | h <;> simp [h]

/-! ### Writes to one register in turn -/

/-- A write of register 0 is discarded (10/R21). -/
@[simp] theorem State.writeX_zero (s : State) (w : Word) : s.writeX 0#5 w = s := rfl

/-- The last of two writes to a register stands. -/
@[simp] theorem State.writeX_writeX (s : State) (d : RegNum) (w w' : Word) :
    (s.writeX d w).writeX d w' = s.writeX d w' := by
  by_cases h : d = 0#5
  · simp only [h, State.writeX_zero]
  · simp [State.writeX, h]

/-- A slice load after a write to its register is one write. -/
theorem sliceOp_writeX (k : Nat) (rd : RegNum) (imm : BitVec 16) (s : State) (w : Word) :
    sliceOp k rd imm (s.writeX rd w) = s.writeX rd (insertSlice w k imm) := by
  rw [sliceOp, State.writeX_writeX, State.readX_writeX_same]
  by_cases h : rd = 0#5
  · rw [h, State.writeX_zero, State.writeX_zero]
  · rw [if_neg h]

/-- The four slice loads of an address are one write of the address. -/
theorem sliceOp_all (rd : RegNum) (a : Word) (s : State) :
    sliceOp 3 rd (a.extractLsb' 48 16) (sliceOp 2 rd (a.extractLsb' 32 16)
      (sliceOp 1 rd (a.extractLsb' 16 16) (sliceOp 0 rd (a.extractLsb' 0 16) s))) = s.writeX rd a := by
  have hfirst : sliceOp 0 rd (a.extractLsb' 0 16) s =
      s.writeX rd (insertSlice (s.readX rd) 0 (a.extractLsb' 0 16)) := rfl
  rw [hfirst, sliceOp_writeX, sliceOp_writeX, sliceOp_writeX, insertSlice_all]

/-! ### The instructions -/

/-- Settles O20: each is an operation on a source and the extended immediate. -/
theorem immediateArithmetic : Obligations.ImmediateArithmetic := fun _ _ _ _ =>
  ⟨⟨encodeI_eq_wordI rfl, exec_immOp rfl rfl⟩, ⟨encodeI_eq_wordI rfl, exec_immOp rfl rfl⟩,
    ⟨encodeI_eq_wordI rfl, exec_immOp rfl rfl⟩, ⟨encodeI_eq_wordI rfl, exec_immOp rfl rfl⟩,
    ⟨encodeI_eq_wordI rfl, exec_immOp rfl rfl⟩, ⟨encodeI_eq_wordI rfl, exec_immOp rfl rfl⟩,
    ⟨encodeI_eq_wordI rfl, exec_immOp rfl rfl⟩, ⟨encodeI_eq_wordI rfl, exec_immOp rfl rfl⟩,
    ⟨encodeI_eq_wordI rfl, exec_immOp rfl rfl⟩, ⟨encodeI_eq_wordI rfl, exec_immOp rfl rfl⟩⟩

/-- Settles O21: each is an operation on a source and the immediate; the compares by the values of the source and the
extended immediate, the shifts by a count reduced modulo the width of what is shifted. -/
theorem immediateCompareAndShift : Obligations.ImmediateCompareAndShift := by
  intro _ _ imm _
  rw [← shiftCount_two_pow 6 imm, ← shiftCount_two_pow 5 imm, ← toInt_sextImm, ← toNat_zextImm]
  exact ⟨⟨encodeI_eq_wordI rfl, exec_immOp rfl (zeroOne_signedLess 64 _ _)⟩,
    ⟨encodeI_eq_wordI rfl, exec_immOp rfl (zeroOne_unsignedLess 64 _ _)⟩,
    ⟨encodeI_eq_wordI rfl, exec_immOp rfl rfl⟩, ⟨encodeI_eq_wordI rfl, exec_immOp rfl rfl⟩,
    ⟨encodeI_eq_wordI rfl, exec_immOp rfl rfl⟩, ⟨encodeI_eq_wordI rfl, exec_immOp rfl rfl⟩,
    ⟨encodeI_eq_wordI rfl, exec_immOp rfl rfl⟩, ⟨encodeI_eq_wordI rfl, exec_immOp rfl rfl⟩⟩

/-- Settles O22: each puts the immediate between the bits above its slice and the bits below it. -/
theorem sliceLoads : Obligations.SliceLoads := fun _ imm _ =>
  ⟨⟨encodeEI_eq_wordEI rfl rfl, exec_sliceOp rfl (insertSlice_lowest _ imm)⟩,
    ⟨encodeEI_eq_wordEI rfl rfl, exec_sliceOp rfl (insertSlice_eq_append _ 1 32 imm rfl)⟩,
    ⟨encodeEI_eq_wordEI rfl rfl, exec_sliceOp rfl (insertSlice_eq_append _ 2 16 imm rfl)⟩,
    ⟨encodeEI_eq_wordEI rfl rfl, exec_sliceOp rfl (insertSlice_highest _ imm)⟩⟩

/-- Settles O23: the four slice loads are one write of the address. -/
theorem loadAddress : Obligations.LoadAddress := by
  intro rd a s
  refine ⟨_, _, _, _, rfl, rfl, rfl, rfl, ?_⟩
  rw [sliceOp_all]
  exact writesX_writeX s rd a

end Sys2Proof.Machine
end

section
/-! PROOFS. The scalar loads and stores (42_load_store.md): the address each uses, what it loads or stores there, and that
it changes nothing else, or raises the condition of a failed check and changes nothing at all. -/

namespace Sys2Proof.Machine

/-! ### Addresses and data (42/R210 to R212) -/

/-- The byte offset is signed, for the loads that zero-extend their data too. -/
theorem offsetAddress_eq_add (s : State) (base : RegNum) (imm : BitVec 15) :
    offsetAddress s base imm = s.readX base + imm.signExtend 64 := rfl

/-- An index is scaled by the access size, and the sum wraps. -/
theorem scaledAddress_eq_add (s : State) (base index : RegNum) (k : Nat) :
    scaledAddress s base index k = s.readX base + s.readX index <<< k := rfl

/-- An index of single bytes is added as it is. -/
theorem scaledAddress_zero (s : State) (base index : RegNum) :
    scaledAddress s base index 0 = s.readX base + s.readX index := by
  rw [scaledAddress_eq_add, BitVec.shiftLeft_zero]

/-- Eight bytes fill a register, so that nothing is left to extend. -/
theorem zextLoad_eight : zextLoad 8 = fun m => m := funext BitVec.setWidth_eq

/-! ### What a load and a store leave -/

/-- Everything a load does, under any names for its address and for how it extends the data (42/R212, R214). -/
theorem exec_loadOp {i : Instr} {s : State} {n : Nat} {extend widen : BitVec (8 * n) → Word} {a ea : Word} {d : RegNum}
    (hexec : exec i s = .next (loadOp n extend a d s)) (haddress : a = ea) (hextend : extend = widen) :
    LoadsValue i s n ea d widen := by
  subst haddress hextend
  exact loadOp_spec i s n extend a d hexec

/-- Everything a store does, under any name for its address (42/R213, R214). -/
theorem exec_storeOp {i : Instr} {s : State} {n : Nat} {a ea : Word} {r : RegNum} (hwf : Memory.wf s.mem)
    (hexec : exec i s = .next (storeOp n a r s)) (haddress : a = ea) :
    StoresValue i s n ea ((s.readX r).setWidth (8 * n)) := by
  subst haddress
  exact storeOp_spec i s n a r hwf hexec

/-! ### The instructions -/

/-- Settles O24: each is a load at base plus signed offset; only `ld` has nothing to extend. -/
theorem loadsImmediate : Obligations.LoadsImmediate := by
  intro rs rt imm s
  have haddress := offsetAddress_eq_add s rs imm
  exact ⟨⟨encodeI_eq_wordI rfl, exec_loadOp rfl haddress rfl⟩, ⟨encodeI_eq_wordI rfl, exec_loadOp rfl haddress rfl⟩,
    ⟨encodeI_eq_wordI rfl, exec_loadOp rfl haddress rfl⟩, ⟨encodeI_eq_wordI rfl, exec_loadOp rfl haddress rfl⟩,
    ⟨encodeI_eq_wordI rfl, exec_loadOp rfl haddress rfl⟩, ⟨encodeI_eq_wordI rfl, exec_loadOp rfl haddress rfl⟩,
    ⟨encodeI_eq_wordI rfl, exec_loadOp rfl haddress zextLoad_eight⟩⟩

/-- Settles O25: each is a load at base plus scaled index, with the index unscaled where the access is one byte. -/
theorem loadsScaled : Obligations.LoadsScaled := by
  intro rs rt rd s
  have hbyte := scaledAddress_zero s rs rt
  have haddress := scaledAddress_eq_add s rs rt
  exact ⟨⟨encodeR_eq_wordR rfl rfl, exec_loadOp rfl hbyte rfl⟩, ⟨encodeR_eq_wordR rfl rfl, exec_loadOp rfl hbyte rfl⟩,
    ⟨encodeR_eq_wordR rfl rfl, exec_loadOp rfl (haddress 1) rfl⟩,
    ⟨encodeR_eq_wordR rfl rfl, exec_loadOp rfl (haddress 1) rfl⟩,
    ⟨encodeR_eq_wordR rfl rfl, exec_loadOp rfl (haddress 2) rfl⟩,
    ⟨encodeR_eq_wordR rfl rfl, exec_loadOp rfl (haddress 2) rfl⟩,
    ⟨encodeR_eq_wordR rfl rfl, exec_loadOp rfl (haddress 3) zextLoad_eight⟩⟩

/-- Settles O26: four stores at base plus signed offset take their value from `rt`, four at base plus scaled index from
`rd`, which they read and do not write. -/
theorem stores : Obligations.Stores := by
  intro rs rt rd imm s hwf
  have hoffset := offsetAddress_eq_add s rs imm
  have hbyte := scaledAddress_zero s rs rt
  have hscaled := scaledAddress_eq_add s rs rt
  exact ⟨⟨encodeI_eq_wordI rfl, exec_storeOp hwf rfl hoffset⟩, ⟨encodeI_eq_wordI rfl, exec_storeOp hwf rfl hoffset⟩,
    ⟨encodeI_eq_wordI rfl, exec_storeOp hwf rfl hoffset⟩, ⟨encodeI_eq_wordI rfl, exec_storeOp hwf rfl hoffset⟩,
    ⟨encodeR_eq_wordR rfl rfl, exec_storeOp hwf rfl hbyte⟩,
    ⟨encodeR_eq_wordR rfl rfl, exec_storeOp hwf rfl (hscaled 1)⟩,
    ⟨encodeR_eq_wordR rfl rfl, exec_storeOp hwf rfl (hscaled 2)⟩,
    ⟨encodeR_eq_wordR rfl rfl, exec_storeOp hwf rfl (hscaled 3)⟩⟩

end Sys2Proof.Machine
end

section
/-! PROOFS. Control transfer (43_control.md): where the branches and jumps go, what the linking jumps leave in register
31, and that nothing else changes. -/

namespace Sys2Proof.Machine

/-! ### Words of the J format (30/R115) -/

/-- The word of a J instruction by the spec's formula, from the opcode of its row. -/
theorem encodeJ_eq_wordJ {m : Mnemonic} {base : InstrWord}
    (hbase : (config.itable m).opcode.setWidth 32 <<< 25 = base) {addr : BitVec 25} :
    encodeJ m addr = wordJ base addr := by
  subst hbase
  exact jWord_eq_wordJ _ _ addr (toNat_opcode_shifted _)

/-! ### Relations of two registers (43/R256 to R259) -/

theorem signedLess_iff {w : Nat} (a b : BitVec w) : signedLess a b = true ↔ a.toInt < b.toInt :=
  BitVec.slt_iff_toInt_lt

theorem not_signedLess_iff {w : Nat} (a b : BitVec w) : (!signedLess a b) = true ↔ b.toInt ≤ a.toInt := by
  rw [Bool.not_eq_true', Bool.eq_false_iff, ne_eq, signedLess_iff, Int.not_lt]

theorem unsignedLess_iff {w : Nat} (a b : BitVec w) : unsignedLess a b = true ↔ a.toNat < b.toNat :=
  BitVec.ult_iff_lt

theorem not_unsignedLess_iff {w : Nat} (a b : BitVec w) : (!unsignedLess a b) = true ↔ b.toNat ≤ a.toNat := by
  rw [Bool.not_eq_true', Bool.eq_false_iff, ne_eq, unsignedLess_iff, Nat.not_lt]

/-! ### Branches (43/R251) -/

/-- The offset is signed and counts words; the shift by 2 scales it without loss modulo 2^64. -/
theorem branchTarget_eq_add (pc : Word) (imm : BitVec 15) :
    branchTarget pc imm = pc + BitVec.ofInt 64 (4 * imm.toInt) := by
  have hoffset : sextImm imm = BitVec.ofInt 64 imm.toInt := rfl
  rw [branchTarget, hoffset, BitVec.shiftLeft_eq_mul_twoPow, BitVec.ofInt_mul, BitVec.mul_comm]
  rfl

/-- Everything a branch does, under any name for its relation. -/
theorem exec_branchOp {i : Instr} {s : State} {rel : Word → Word → Bool} {rs rt : RegNum} {imm : BitVec 15}
    {P : Prop} [Decidable P] (hexec : exec i s = .next (branchOp rel rs rt imm s))
    (hrel : rel (s.readX rs) (s.readX rt) = true ↔ P) :
    ∃ t, exec i s = .next t ∧ MovesPc s t (if P then s.pc + BitVec.ofInt 64 (4 * imm.toInt) else s.pc) := by
  refine ⟨_, hexec, ?_⟩
  by_cases htaken : P
  · rw [branchOp, if_pos (hrel.mpr htaken), if_pos htaken, branchTarget_eq_add]
    exact movesPc_setPc s _
  · rw [branchOp, if_neg (mt hrel.mp htaken), if_neg htaken]
    exact movesPc_self s

/-! ### The instructions -/

/-- Settles O27: each is a branch; only the relation differs. -/
theorem branches : Obligations.Branches := fun _ _ _ _ =>
  ⟨⟨encodeI_eq_wordI rfl, exec_branchOp rfl beq_iff_eq⟩, ⟨encodeI_eq_wordI rfl, exec_branchOp rfl bne_iff_ne⟩,
    ⟨encodeI_eq_wordI rfl, exec_branchOp rfl (signedLess_iff _ _)⟩,
    ⟨encodeI_eq_wordI rfl, exec_branchOp rfl (not_signedLess_iff _ _)⟩,
    ⟨encodeI_eq_wordI rfl, exec_branchOp rfl (unsignedLess_iff _ _)⟩,
    ⟨encodeI_eq_wordI rfl, exec_branchOp rfl (not_unsignedLess_iff _ _)⟩⟩

/-- Settles O28: two writes of `pc`, two linking transfers to a target computed before the link is written, and `nop`,
which leaves the state as it is. -/
theorem jumpsAndNop : Obligations.JumpsAndNop := fun addr rs _ _ s =>
  ⟨⟨encodeJ_eq_wordJ rfl, _, rfl, movesPc_setPc s (jumpTarget s.pc addr)⟩,
    ⟨encodeJ_eq_wordJ rfl, _, rfl, links_linkTo s (jumpTarget s.pc addr)⟩,
    ⟨encodeR_eq_wordR rfl rfl, _, rfl, movesPc_setPc s (s.readX rs)⟩,
    ⟨encodeR_eq_wordR rfl rfl, _, rfl, links_linkTo s (s.readX rs)⟩,
    ⟨encodeJ_eq_wordJ rfl, _, rfl, movesPc_self s⟩⟩

end Sys2Proof.Machine
end

section
/-! PROOFS. Vector arithmetic, logic and shifts (44_vector_arith.md): what every lane becomes, as the spec writes it, that
nothing but the destination changes, and that a float lane is the correctly rounded result of the data its sources stand
for. -/

namespace Sys2Proof.Machine

/-! ### What an instruction of each form leaves (44/R270, R271) -/

/-- A write of a vector register, under any name for its value, changes nothing else. -/
theorem exec_writeV {i : Instr} {s : State} {rd : RegNum} {v w : VWord} (hexec : exec i s = .next (s.writeV rd v))
    (hresult : v = w) : ∃ t, exec i s = .next t ∧ WritesV s t rd w 0 := by
  subst hresult
  exact ⟨_, hexec, writesV_writeV s rd v⟩

/-- The same, lane by lane. -/
theorem exec_writeV_lanes {i : Instr} {s : State} {rd : RegNum} {v : VWord} {w : Nat} {f : Nat → BitVec w}
    (hexec : exec i s = .next (s.writeV rd v)) (hlanes : ∀ k, k < laneCount w → lane w k v = f k) :
    ∃ t, exec i s = .next t ∧ WritesLanes w s t rd f 0 :=
  ⟨_, hexec, v, writesV_writeV s rd v, hlanes⟩

/-- An operation on the lanes of two sources. -/
theorem exec_zipLanes {i : Instr} {s : State} {w : Nat} {f : BitVec w → BitVec w → BitVec w} {rs rt rd : RegNum}
    (hexec : exec i s = .next (vecOp (zipLanes w f) rs rt rd s)) :
    ∃ t, exec i s = .next t ∧
      WritesLanes w s t rd (fun k => f (lane w k (s.readV rs)) (lane w k (s.readV rt))) 0 :=
  exec_writeV_lanes hexec (lane_zipLanes f _ _)

/-- A shift of every lane by one count. -/
theorem exec_shiftAll {i : Instr} {s : State} {w : Nat} {shift : BitVec w → Nat → BitVec w} {rs rt rd : RegNum}
    (hexec : exec i s = .next (vecScalarOp (shiftAll w shift) rs rt rd s)) :
    ∃ t, exec i s = .next t ∧
      WritesLanes w s t rd (fun k => shift (lane w k (s.readV rs)) (s.readX rt).toNat) 0 :=
  exec_writeV_lanes hexec (lane_mapLanes _ _)

/-- A shift of each lane by its own count is an operation on the lanes of two sources. -/
theorem exec_shiftEach {i : Instr} {s : State} {w : Nat} {shift : BitVec w → Nat → BitVec w} {rs rt rd : RegNum}
    (hexec : exec i s = .next (vecOp (shiftEach w shift) rs rt rd s)) :
    ∃ t, exec i s = .next t ∧
      WritesLanes w s t rd (fun k => shift (lane w k (s.readV rs)) (lane w k (s.readV rt)).toNat) 0 :=
  exec_zipLanes hexec

/-! ### Integer division of every lane (44/R272) -/

/-- Everything a lane-wise divide does: one bad lane raises `ArithFault`, and where there is none every lane is
divided. -/
theorem exec_vecDivideOp {i : Instr} {s : State} {w : Nat} {rs rt rd : RegNum} (hw : 0 < w)
    (hexec : exec i s = .next (vecDivideOp w i rs rt rd s)) :
    (¬(∃ k, k < laneCount w ∧ ((lane w k (s.readV rt)).toInt = 0 ∨
        ((lane w k (s.readV rs)).toInt = -2 ^ (w - 1) ∧ (lane w k (s.readV rt)).toInt = -1))) →
      ∃ t, ∃ q : Nat → BitVec w, exec i s = .next t ∧ WritesLanes w s t rd q 0 ∧
        ∀ k, k < laneCount w → (q k).toInt = Int.tdiv (lane w k (s.readV rs)).toInt (lane w k (s.readV rt)).toInt) ∧
    ((∃ k, k < laneCount w ∧ ((lane w k (s.readV rt)).toInt = 0 ∨
        ((lane w k (s.readV rs)).toInt = -2 ^ (w - 1) ∧ (lane w k (s.readV rt)).toInt = -1))) →
      exec i s = .next { s with op := .faulted (.arithFault (encode i)) }) := by
  simp only [← signedDivFaults_iff hw]
  constructor
  · intro hbad
    have hgood : ∀ k, k < laneCount w → signedDivFaults (lane w k (s.readV rs)) (lane w k (s.readV rt)) = false :=
      fun k hk => Bool.eq_false_iff.mpr fun h => hbad ⟨k, hk, h⟩
    obtain ⟨v, hv, hlanes⟩ := quotientLanes_result hgood
    rw [vecDivideOp, hv] at hexec
    obtain ⟨t, ht, hwrites⟩ := exec_writeV_lanes hexec hlanes
    exact ⟨t, _, ht, hwrites, fun k hk => toInt_quotientSigned (hgood k hk)⟩
  · rintro ⟨k, hk, hbad⟩
    rw [hexec, vecDivideOp, quotientLanes_faults hk hbad]
    rfl

/-! ### The patterns a float operation may write (44/R273) -/

/-- The format has an exponent and a fraction field. -/
structure FloatFormat.HasFields (F : FloatFormat) : Prop where
  exp : 0 < F.expBits
  frac : 0 < F.fracBits

theorem binary32_hasFields : binary32.HasFields := ⟨by decide, by decide⟩
theorem binary64_hasFields : binary64.HasFields := ⟨by decide, by decide⟩

/-- Whatever the free value, the pattern written for `result` is one of the format and has the property `P`. -/
def WritesPattern (F : FloatFormat) (result : Option Nat) (P : Nat → Prop) : Prop :=
  ∀ draw, F.finish draw result < 2 * F.signBit ∧ P (F.finish draw result)

section Patterns
variable {F : FloatFormat}

/-- The magnitudes end where the sign bit begins: there are `2 ^ fracBits` from infinity up. -/
theorem FloatFormat.infPattern_add_eq_signBit (F : FloatFormat) : F.infPattern + 2 ^ F.fracBits = F.signBit := by
  have hexp : 0 < 2 ^ F.expBits := Nat.two_pow_pos _
  rw [FloatFormat.infPattern, FloatFormat.signBit, Nat.pow_add, ← Nat.succ_mul]
  congr 1
  omega

theorem FloatFormat.infPattern_lt_signBit (F : FloatFormat) : F.infPattern < F.signBit := by
  have hadd := F.infPattern_add_eq_signBit
  have hfrac : 0 < 2 ^ F.fracBits := Nat.two_pow_pos _
  omega

/-- A sign and a magnitude below the sign bit give a pattern of the format, with that magnitude. -/
theorem FloatFormat.signed_lt (F : FloatFormat) (neg : Bool) {m : Nat} (hm : m < F.signBit) :
    F.signed neg m < 2 * F.signBit := by
  cases neg <;> simp [FloatFormat.signed] <;> omega

theorem FloatFormat.signed_mod (F : FloatFormat) (neg : Bool) {m : Nat} (hm : m < F.signBit) :
    F.signed neg m % F.signBit = m := by
  cases neg <;> simp [FloatFormat.signed, Nat.mod_eq_of_lt hm]

/-- Every draw gives a NaN. -/
theorem isNan_someNan (hF : F.HasFields) (draw : Nat) : IsNan F (F.someNan draw) := by
  have hadd := F.infPattern_add_eq_signBit
  have hone : 1 < 2 ^ F.fracBits := Nat.one_lt_two_pow hF.frac.ne'
  have hfrac : draw % 2 ^ F.fracBits < 2 ^ F.fracBits := Nat.mod_lt _ (by omega)
  unfold FloatFormat.someNan
  dsimp only
  generalize draw % 2 ^ F.fracBits = fraction at hfrac ⊢
  obtain ⟨hpos, hlt⟩ : 0 < (if fraction = 0 then 1 else fraction) ∧
      (if fraction = 0 then 1 else fraction) < 2 ^ F.fracBits := by
    split <;> omega
  exact ⟨F.signed_lt _ (by omega), by rw [F.signed_mod _ (by omega)]; omega⟩

theorem writesPattern_nan (hF : F.HasFields) : WritesPattern F none (IsNan F) :=
  fun draw => ⟨(isNan_someNan hF draw).1, isNan_someNan hF draw⟩

/-- An exact result, zero or infinity. -/
theorem writesPattern_signed (neg : Bool) {m : Nat} (hm : m < F.signBit) :
    WritesPattern F (some (F.signed neg m)) (· = F.signed neg m) :=
  fun _ => ⟨F.signed_lt neg hm, rfl⟩

theorem writesPattern_inf (neg : Bool) :
    WritesPattern F (some (F.signed neg F.infPattern)) (· = F.signed neg F.infPattern) :=
  writesPattern_signed neg F.infPattern_lt_signBit

theorem writesPattern_zero (neg : Bool) : WritesPattern F (some (F.signed neg 0)) (· = F.signed neg 0) :=
  writesPattern_signed neg (Nat.two_pow_pos _)

/-- A result that is rounded once. -/
theorem writesPattern_nearest (hF : F.HasFields) (neg : Bool) (num : Nat) {den : Nat}
    (hden : 0 < den) :
    WritesPattern F (some (F.signed neg (F.roundMagnitude .nearest neg num den))) (IsNearest F neg num den) := by
  have hle : F.roundMagnitude .nearest neg num den ≤ F.infPattern := Nat.min_le_right _ _
  exact fun _ => ⟨F.signed_lt neg (Nat.lt_of_le_of_lt hle F.infPattern_lt_signBit), _,
    F.roundMagnitude_nearest hF.frac hF.exp neg num den hden, rfl⟩

/-- A result that depends on a case. -/
theorem writesPattern_ite {c : Prop} [Decidable c] {result result' : Option Nat} {P P' : Nat → Prop}
    (h : WritesPattern F result P) (h' : WritesPattern F result' P') :
    WritesPattern F (if c then result else result') (fun p => if c then P p else P' p) := by
  by_cases hc : c
  · simpa only [if_pos hc] using h
  · simpa only [if_neg hc] using h'

/-! ### Sum, product and quotient of two data -/

theorem writesPattern_addData (hF : F.HasFields) (a b : Datum) : WritesPattern F (F.addData a b) (IsSum F a b) := by
  match a, b with
  | .nan, _ => exact writesPattern_nan hF
  | .inf _, .nan => exact writesPattern_nan hF
  | .fin _ _, .nan => exact writesPattern_nan hF
  | .inf n, .inf _ => exact writesPattern_ite (writesPattern_inf n) (writesPattern_nan hF)
  | .inf n, .fin _ _ => exact writesPattern_inf n
  | .fin _ _, .inf m => exact writesPattern_inf m
  | .fin n _, .fin m _ => exact writesPattern_ite (writesPattern_zero (n && m)) (writesPattern_nearest hF _ _ Nat.one_pos)

theorem writesPattern_mulData (hF : F.HasFields) (a b : Datum) :
    WritesPattern F (F.mulData a b) (IsProduct F a b) := by
  match a, b with
  | .nan, _ => exact writesPattern_nan hF
  | .inf _, .nan => exact writesPattern_nan hF
  | .fin _ _, .nan => exact writesPattern_nan hF
  | .inf n, .inf m => exact writesPattern_inf (n != m)
  | .inf n, .fin m _ => exact writesPattern_ite (writesPattern_nan hF) (writesPattern_inf (n != m))
  | .fin n _, .inf m => exact writesPattern_ite (writesPattern_nan hF) (writesPattern_inf (n != m))
  | .fin n x, .fin m y => exact writesPattern_nearest hF (n != m) (x * y) (Nat.two_pow_pos _)

theorem writesPattern_divData (hF : F.HasFields) (a b : Datum) :
    WritesPattern F (F.divData a b) (IsQuotient F a b) := by
  match a, b with
  | .nan, _ => exact writesPattern_nan hF
  | .inf _, .nan => exact writesPattern_nan hF
  | .fin _ _, .nan => exact writesPattern_nan hF
  | .inf _, .inf _ => exact writesPattern_nan hF
  | .inf n, .fin m _ => exact writesPattern_inf (n != m)
  | .fin n _, .inf m => exact writesPattern_zero (n != m)
  | .fin n _, .fin m 0 => exact writesPattern_ite (writesPattern_nan hF) (writesPattern_inf (n != m))
  | .fin n x, .fin m (y + 1) => exact writesPattern_nearest hF (n != m) (x * 2 ^ F.unit) (Nat.succ_pos y)

/-! ### The operations on patterns are the ones on the data they stand for -/

theorem writesPattern_add (hF : F.HasFields) (a b : Nat) :
    WritesPattern F (F.add a b) (IsSum F (F.datum a) (F.datum b)) := writesPattern_addData hF _ _

theorem writesPattern_sub (hF : F.HasFields) (a b : Nat) :
    WritesPattern F (F.sub a b) (IsSum F (F.datum a) (F.datum b).negate) := writesPattern_addData hF _ _

theorem writesPattern_mul (hF : F.HasFields) (a b : Nat) :
    WritesPattern F (F.mul a b) (IsProduct F (F.datum a) (F.datum b)) := writesPattern_mulData hF _ _

theorem writesPattern_div (hF : F.HasFields) (a b : Nat) :
    WritesPattern F (F.div a b) (IsQuotient F (F.datum a) (F.datum b)) := writesPattern_divData hF _ _

end Patterns

/-! ### Float lanes -/

/-- A lane as wide as the format takes the pattern whole. -/
theorem floatLane_spec {F : FloatFormat} {w : Nat} {op : FloatFormat → Nat → Nat → Option Nat} {a b : BitVec w}
    {P : Nat → Prop} (hw : 2 ^ w = 2 * F.signBit) (hop : WritesPattern F (op F a.toNat b.toNat) P) (draw : BitVec 64) :
    P (floatLane F op draw a b).toNat := by
  obtain ⟨hlt, hP⟩ := hop draw.toNat
  rw [floatLane, BitVec.toNat_ofNat, Nat.mod_eq_of_lt (hw ▸ hlt)]
  exact hP

/-- Everything a lane-wise float instruction does: each lane has the property the operation gives its result. -/
theorem exec_floatOp {F : FloatFormat} {w : Nat} {op : FloatFormat → Nat → Nat → Option Nat}
    {P : Nat → Nat → Nat → Prop} (hop : ∀ a b, WritesPattern F (op F a b) (P a b)) (hw : 2 ^ w = 2 * F.signBit)
    {i : Instr} {s : State} {rs rt rd : RegNum} (hexec : exec i s = .next (floatOp w F op rs rt rd s)) :
    ∃ t draws, ∃ r : Nat → BitVec w, exec i s = .next t ∧ WritesLanes w s t rd r draws ∧
      ∀ k, k < laneCount w → P (lane w k (s.readV rs)).toNat (lane w k (s.readV rt)).toNat (r k).toNat :=
  ⟨_, _, _, hexec, writesLanes_drew s rd _ _, fun _ _ => floatLane_spec hw (hop _ _) _⟩

/-! ### The fields of a pattern (44/R273, 00/R9) -/

/-- The magnitude of a pattern is its exponent field above its fraction field. -/
theorem FloatFormat.mod_signBit_eq_fields (F : FloatFormat) (p : Nat) :
    p % F.signBit = p / 2 ^ F.fracBits % 2 ^ F.expBits * 2 ^ F.fracBits + p % 2 ^ F.fracBits := by
  rw [FloatFormat.signBit, Nat.add_comm F.expBits, Nat.pow_add, Nat.mod_mul, Nat.add_comm, Nat.mul_comm]

/-- The top bit of a pattern is its sign. -/
theorem FloatFormat.sign_eq_decide (F : FloatFormat) {p : Nat} (hp : p < 2 * F.signBit) :
    (p / F.signBit % 2 == 1) = decide (F.signBit ≤ p) := by
  have hpos : 0 < F.signBit := Nat.two_pow_pos _
  have hdigit : p / F.signBit < 2 := (Nat.div_lt_iff_lt_mul hpos).mpr hp
  have hone : 1 ≤ p / F.signBit ↔ F.signBit ≤ p := by rw [Nat.le_div_iff_mul_le hpos, Nat.one_mul]
  rw [Bool.eq_iff_iff, beq_iff_eq, decide_eq_true_eq, ← hone]
  generalize p / F.signBit = digit at *
  omega

section Datum
variable {F : FloatFormat} {p : Nat} (hp : p < 2 * F.signBit)
include hp

theorem datum_of_lt (h : p % F.signBit < F.infPattern) :
    F.datum p = .fin (decide (F.signBit ≤ p)) (F.quanta (p % F.signBit)) := by
  rw [← F.sign_eq_decide hp]
  exact if_pos h

theorem datum_of_eq (h : p % F.signBit = F.infPattern) : F.datum p = .inf (decide (F.signBit ≤ p)) := by
  rw [← F.sign_eq_decide hp]
  exact (if_neg (by omega)).trans (if_pos h)

end Datum

theorem datum_of_gt {F : FloatFormat} {p : Nat} (h : F.infPattern < p % F.signBit) : F.datum p = .nan :=
  (if_neg (by omega)).trans (if_neg (by omega))

/-- An exponent field below all ones makes the magnitude finite. -/
theorem FloatFormat.fields_lt_infPattern (F : FloatFormat) {e f : Nat} (he : e < 2 ^ F.expBits - 1)
    (hf : f < 2 ^ F.fracBits) : e * 2 ^ F.fracBits + f < F.infPattern :=
  calc e * 2 ^ F.fracBits + f < (e + 1) * 2 ^ F.fracBits := by rw [Nat.succ_mul]; omega
    _ ≤ F.infPattern := Nat.mul_le_mul_right _ he

/-- The quanta of a subnormal are its fraction. -/
theorem FloatFormat.quanta_subnormal (F : FloatFormat) {f : Nat} (hf : f < 2 ^ F.fracBits) : F.quanta f = f :=
  if_pos (Nat.lt_of_lt_of_le hf (Nat.pow_le_pow_right Nat.two_pos (Nat.le_succ _)))

/-- The quanta of a normal are its fraction with the hidden bit, doubled at every exponent from 1 up. -/
theorem FloatFormat.quanta_normal (F : FloatFormat) {e f : Nat} (he : 0 < e) (hf : f < 2 ^ F.fracBits) :
    F.quanta (e * 2 ^ F.fracBits + f) = (2 ^ F.fracBits + f) * 2 ^ (e - 1) := by
  obtain ⟨k, rfl⟩ : ∃ k, e = k + 1 := ⟨e - 1, by omega⟩
  have hsignificand : 2 ^ F.fracBits + f ≤ 2 ^ (F.fracBits + 1) := by rw [Nat.pow_succ]; omega
  rw [Nat.succ_mul, Nat.add_assoc, F.quanta_shifted k _ hsignificand (.inr (Nat.le_add_right _ _)), Nat.add_sub_cancel]

/-! ### Quanta as numbers -/

/-- A quantum is `2 ^ fracBits` times smaller than the scale of exponent 1, whose power of two is 1 less the bias. -/
theorem FloatFormat.two_pow_unit (F : FloatFormat) (hF : F.HasFields) :
    (2 : Rat) ^ F.unit = 2 ^ F.fracBits * 2 ^ ((2 ^ (F.expBits - 1) - 1 : Int) - 1) := by
  have hbias : 1 ≤ 2 ^ (F.expBits - 1) := Nat.one_le_two_pow
  have hfrac := hF.frac
  have hunit : (F.unit : Int) = F.fracBits + ((2 ^ (F.expBits - 1) - 1 : Int) - 1) := by
    have hcast : ((2 ^ (F.expBits - 1) : Nat) : Int) = 2 ^ (F.expBits - 1) := by push_cast; rfl
    rw [FloatFormat.unit, ← hcast]
    omega
  rw [← zpow_natCast, hunit, zpow_add₀ two_ne_zero, zpow_natCast]

/-- Quanta doubled `k` times are on the scale of exponent `k + 1`. -/
theorem finiteValue_scaled (F : FloatFormat) (hF : F.HasFields) (q k : Nat) :
    finiteValue F false (q * 2 ^ k) =
      (q : Rat) / 2 ^ F.fracBits * 2 ^ ((k : Int) + 1 - (2 ^ (F.expBits - 1) - 1 : Int)) := by
  have hexponent : (k : Int) + 1 - (2 ^ (F.expBits - 1) - 1 : Int) = k - ((2 ^ (F.expBits - 1) - 1 : Int) - 1) := by ring
  have hquanta : (signedQuanta false (q * 2 ^ k) : Rat) = q * 2 ^ k := by simp [signedQuanta]
  rw [finiteValue, hquanta, F.two_pow_unit hF, hexponent, zpow_sub₀ two_ne_zero (k : Int),
    zpow_natCast, div_mul_div_comm]

/-! ### The instructions -/

/-- Settles O29: each is an operation on the lanes of two sources. -/
theorem integerLanes : Obligations.IntegerLanes := fun _ _ _ _ =>
  ⟨⟨encodeR_eq_wordR rfl rfl, exec_zipLanes rfl⟩, ⟨encodeR_eq_wordR rfl rfl, exec_zipLanes rfl⟩,
    ⟨encodeR_eq_wordR rfl rfl, exec_zipLanes rfl⟩, ⟨encodeR_eq_wordR rfl rfl, exec_zipLanes rfl⟩,
    ⟨encodeR_eq_wordR rfl rfl, exec_zipLanes rfl⟩, ⟨encodeR_eq_wordR rfl rfl, exec_zipLanes rfl⟩⟩

/-- Settles O30: each is one write of a vector register, of all its bits at once. -/
theorem vectorLogic : Obligations.VectorLogic := fun _ _ _ _ =>
  ⟨⟨encodeR_eq_wordR rfl rfl, exec_writeV rfl rfl⟩, ⟨encodeR_eq_wordR rfl rfl, exec_writeV rfl rfl⟩,
    ⟨encodeR_eq_wordR rfl rfl, exec_writeV rfl rfl⟩, ⟨encodeR_eq_wordR rfl rfl, exec_writeV rfl rfl⟩⟩

/-- Settles O31: each shifts every lane by the register's number, reduced modulo the width of a lane. -/
theorem shiftsByScalar : Obligations.ShiftsByScalar := by
  intro _ _ _ _
  rw [← shiftCount_64, ← shiftCount_32]
  exact ⟨⟨encodeR_eq_wordR rfl rfl, exec_shiftAll (shift := shiftLeft) rfl⟩,
    ⟨encodeR_eq_wordR rfl rfl, exec_shiftAll (shift := shiftLeft) rfl⟩,
    ⟨encodeR_eq_wordR rfl rfl, exec_shiftAll (shift := shiftRightLogical) rfl⟩,
    ⟨encodeR_eq_wordR rfl rfl, exec_shiftAll (shift := shiftRightLogical) rfl⟩,
    ⟨encodeR_eq_wordR rfl rfl, exec_shiftAll (shift := shiftRightArith) rfl⟩,
    ⟨encodeR_eq_wordR rfl rfl, exec_shiftAll (shift := shiftRightArith) rfl⟩⟩

/-- Settles O32: each shifts every lane by the number in its count lane, reduced modulo the width of a lane. -/
theorem shiftsByVector : Obligations.ShiftsByVector := by
  intro _ _ _ _
  simp only [← shiftCount_two_pow]
  exact ⟨⟨encodeR_eq_wordR rfl rfl, exec_shiftEach (shift := shiftLeft) rfl⟩,
    ⟨encodeR_eq_wordR rfl rfl, exec_shiftEach (shift := shiftLeft) rfl⟩,
    ⟨encodeR_eq_wordR rfl rfl, exec_shiftEach (shift := shiftRightLogical) rfl⟩,
    ⟨encodeR_eq_wordR rfl rfl, exec_shiftEach (shift := shiftRightLogical) rfl⟩,
    ⟨encodeR_eq_wordR rfl rfl, exec_shiftEach (shift := shiftRightArith) rfl⟩,
    ⟨encodeR_eq_wordR rfl rfl, exec_shiftEach (shift := shiftRightArith) rfl⟩⟩

/-- Settles O33: each is a lane-wise divide. -/
theorem vectorDivide : Obligations.VectorDivide := fun _ _ _ _ =>
  ⟨⟨encodeR_eq_wordR rfl rfl, exec_vecDivideOp (w := 32) (by decide) rfl⟩,
    ⟨encodeR_eq_wordR rfl rfl, exec_vecDivideOp (w := 64) (by decide) rfl⟩⟩

/-- Settles O34: each operation gives every lane the pattern of the sum, product or quotient of the data of its sources;
a difference is the sum with the second datum's sign turned. -/
theorem floatLanes_correctlyRounded : Obligations.FloatLanes := fun _ _ _ _ =>
  ⟨⟨encodeR_eq_wordR rfl rfl, exec_floatOp (writesPattern_add binary32_hasFields) rfl rfl⟩,
    ⟨encodeR_eq_wordR rfl rfl, exec_floatOp (writesPattern_add binary64_hasFields) rfl rfl⟩,
    ⟨encodeR_eq_wordR rfl rfl, exec_floatOp (writesPattern_sub binary32_hasFields) rfl rfl⟩,
    ⟨encodeR_eq_wordR rfl rfl, exec_floatOp (writesPattern_sub binary64_hasFields) rfl rfl⟩,
    ⟨encodeR_eq_wordR rfl rfl, exec_floatOp (writesPattern_mul binary32_hasFields) rfl rfl⟩,
    ⟨encodeR_eq_wordR rfl rfl, exec_floatOp (writesPattern_mul binary64_hasFields) rfl rfl⟩,
    ⟨encodeR_eq_wordR rfl rfl, exec_floatOp (writesPattern_div binary32_hasFields) rfl rfl⟩,
    ⟨encodeR_eq_wordR rfl rfl, exec_floatOp (writesPattern_div binary64_hasFields) rfl rfl⟩⟩

/-- Settles O35: the fields make up the magnitude, by which the datum is found; a normal has the quanta of its fraction
with the hidden bit, and the scale of quanta is that of exponent 1. -/
theorem floatPatterns : Obligations.FloatPatterns := by
  intro F hF p hp neg e f bias
  have hfields : F.HasFields := by
    rcases hF with rfl | rfl
    · exact binary32_hasFields
    · exact binary64_hasFields
  have hf : f < 2 ^ F.fracBits := Nat.mod_lt _ (Nat.two_pow_pos _)
  have hmagnitude : p % F.signBit = e * 2 ^ F.fracBits + f := F.mod_signBit_eq_fields p
  refine ⟨?inf, ?nan, ?subnormal, ?normal⟩
  case inf =>
    intro he hf0
    exact datum_of_eq hp (by rw [hmagnitude, he, hf0]; rfl)
  case nan =>
    intro he hf0
    refine datum_of_gt ?_
    rw [hmagnitude, he]
    exact Nat.lt_add_of_pos_right (Nat.pos_of_ne_zero hf0)
  case subnormal =>
    intro he
    have hexp : 1 < 2 ^ F.expBits := Nat.one_lt_two_pow hfields.exp.ne'
    refine ⟨_, datum_of_lt hp (hmagnitude ▸ F.fields_lt_infPattern (by omega) hf), ?_⟩
    rw [hmagnitude, he, Nat.zero_mul, Nat.zero_add, F.quanta_subnormal hf]
    simpa using finiteValue_scaled F hfields f 0
  case normal =>
    intro hpos hlt
    refine ⟨_, datum_of_lt hp (hmagnitude ▸ F.fields_lt_infPattern hlt hf), ?_⟩
    have hone : (1 : Rat) + (f : Rat) / 2 ^ F.fracBits = ((2 ^ F.fracBits + f : Nat) : Rat) / 2 ^ F.fracBits := by
      push_cast
      rw [add_div, div_self (by positivity)]
    have hexponent : ((e - 1 : Nat) : Int) + 1 = e := by omega
    rw [hmagnitude, F.quanta_normal hpos hf, finiteValue_scaled F hfields, hexponent, hone]

end Sys2Proof.Machine
end

section
/-! PROOFS. Vector compares, integer sums, bit extraction, shuffles and the vector load and store (45_vector_misc.md):
what they compute, as the spec writes it, and that nothing but the destination changes. -/

namespace Sys2Proof.Machine

/-! ### Compares (45/R320) -/

theorem zeroOne_of_iff {w : Nat} {holds : Bool} {P : Prop} [Decidable P] (h : holds = true ↔ P) :
    zeroOne w holds = if P then 1#w else 0#w := by
  simp only [zeroOne, h]

/-- A compare of the lanes of two sources, under any name for the number it leaves in a lane. -/
theorem exec_compareLanes {i : Instr} {s : State} {w : Nat} {rel : BitVec w → BitVec w → Bool} {rs rt rd : RegNum}
    {f : Nat → BitVec w} (hexec : exec i s = .next (vecOp (compareLanes w rel) rs rt rd s))
    (hlanes : ∀ k, zeroOne w (rel (lane w k (s.readV rs)) (lane w k (s.readV rt))) = f k) :
    ∃ t, exec i s = .next t ∧ WritesLanes w s t rd f 0 := by
  obtain rfl : _ = f := funext hlanes
  exact exec_zipLanes hexec

/-- The model's equality is that of the places on the extended line, so that the two zeros are equal. -/
theorem equal_iff_ordered (a b : Datum) : a.equal b = true ↔ Ordered (· = ·) a b := by
  match a, b with
  | .nan, _ => simp [Datum.equal, Ordered, Datum.place]
  | .inf _, .nan => simp [Datum.equal, Ordered, Datum.place]
  | .fin _ _, .nan => simp [Datum.equal, Ordered, Datum.place]
  | .inf n, .inf m => cases n <;> cases m <;> simp [Datum.equal, Ordered, Datum.place]
  | .inf n, .fin _ _ => cases n <;> simp [Datum.equal, Ordered, Datum.place]
  | .fin _ _, .inf m => cases m <;> simp [Datum.equal, Ordered, Datum.place]
  | .fin _ _, .fin _ _ => simp [Datum.equal, Ordered, Datum.place]

/-- Every finite place is below infinity. -/
theorem finite_lt_infinity (i : Int) : ((i : WithTop Int) : WithBot (WithTop Int)) < ⊤ :=
  WithBot.coe_lt_coe.mpr (WithTop.coe_lt_top i)

/-- The model's order is that of the places. -/
theorem less_iff_ordered (a b : Datum) : a.less b = true ↔ Ordered (· < ·) a b := by
  match a, b with
  | .nan, _ => simp [Datum.less, Ordered, Datum.place]
  | .inf _, .nan => simp [Datum.less, Ordered, Datum.place]
  | .fin _ _, .nan => simp [Datum.less, Ordered, Datum.place]
  | .inf n, .inf m => cases n <;> cases m <;> simp [Datum.less, Ordered, Datum.place]
  | .inf n, .fin _ _ => cases n <;> simp [Datum.less, Ordered, Datum.place]
  | .fin _ _, .inf m => cases m <;> simp [Datum.less, Ordered, Datum.place, finite_lt_infinity]
  | .fin _ _, .fin _ _ => simp [Datum.less, Ordered, Datum.place]

/-- A float compare leaves 1 where the data are in the relation its test decides, and 0 elsewhere. -/
theorem exec_floatCompare {rel : WithBot (WithTop Int) → WithBot (WithTop Int) → Prop} {test : Datum → Datum → Bool}
    (htest : ∀ a b, test a b = true ↔ Ordered rel a b) {F : FloatFormat} {w : Nat} {i : Instr} {s : State}
    {rs rt rd : RegNum}
    (hexec : exec i s = .next (vecOp (compareLanes w fun a b => test (F.datum a.toNat) (F.datum b.toNat)) rs rt rd s)) :
    ∃ t, ∃ r : Nat → BitVec w, exec i s = .next t ∧ WritesLanes w s t rd r 0 ∧ ∀ k, k < laneCount w →
      (Ordered rel (F.datum (lane w k (s.readV rs)).toNat) (F.datum (lane w k (s.readV rt)).toNat) → r k = 1#w) ∧
      (¬Ordered rel (F.datum (lane w k (s.readV rs)).toNat) (F.datum (lane w k (s.readV rt)).toNat) → r k = 0#w) := by
  obtain ⟨t, ht, hwrites⟩ := exec_compareLanes hexec fun _ => rfl
  refine ⟨t, _, ht, hwrites, fun k _ => ⟨fun h => if_pos ((htest _ _).mpr h), fun h => if_neg (mt (htest _ _).mp h)⟩⟩

/-! ### Integer sums (45/R322) -/

/-- A sum that starts from 0 is the sum that starts from lane 0. -/
theorem sumLanes_32 (a : VWord) : sumLanes 32 a =
    lane 32 0 a + lane 32 1 a + lane 32 2 a + lane 32 3 a + lane 32 4 a + lane 32 5 a + lane 32 6 a + lane 32 7 a := by
  conv_rhs => rw [← BitVec.zero_add (lane 32 0 a)]
  rfl

theorem sumLanes_64 (a : VWord) : sumLanes 64 a = lane 64 0 a + lane 64 1 a + lane 64 2 a + lane 64 3 a := by
  conv_rhs => rw [← BitVec.zero_add (lane 64 0 a)]
  rfl

/-- A write of a general register, under any name for its value, changes nothing else. -/
theorem exec_writeX {i : Instr} {s : State} {rd : RegNum} {v w : Word} (hexec : exec i s = .next (s.writeX rd v))
    (hresult : v = w) : ∃ t, exec i s = .next t ∧ WritesX s t rd w 0 := by
  subst hresult
  exact ⟨_, hexec, writesX_writeX s rd v⟩

/-! ### Bit extraction (45 section 4) -/

/-- A bit of every lane goes to the bit of the lane's number, and the bits above are 0. -/
theorem exec_packBits {i : Instr} {s : State} {rd : RegNum} {w : Nat} {p : Nat → Bool} (hw : laneCount w ≤ 64)
    (hexec : exec i s = .next (s.writeX rd (packBits w p))) :
    ∃ t r, exec i s = .next t ∧ WritesX s t rd r 0 ∧ ∀ k, r.getLsbD k = (decide (k < laneCount w) && p k) :=
  ⟨_, _, hexec, writesX_writeX s rd _, fun k => packBits_bit w p k hw⟩

/-! ### Shuffles (45 section 5) -/

/-- A shuffle whose indices of `bits` bits lie side by side, lane 0's lowest. -/
theorem exec_shuffle {i : Instr} {s : State} {w bits : Nat} {rs rt rd : RegNum}
    (hexec : exec i s = .next (vecScalarOp (shuffleLanes w (adjacentIndices bits)) rs rt rd s)) :
    ∃ t, exec i s = .next t ∧ WritesLanes w s t rd
      (fun k => lane w ((s.readX rt).extractLsb' (bits * k) bits).toNat (s.readV rs)) 0 :=
  exec_writeV_lanes hexec fun _ => lane_shuffleLanes (adjacentIndices bits) _ _

/-! ### The vector load and store -/

/-- Everything `vld` does (45/R347). -/
theorem exec_vld_spec (rs rt : RegNum) (imm : BitVec 15) (s : State) :
    (Accessible s .read (s.readX rs + imm.signExtend 64) 32 →
      ∃ t v, exec (.vld rs rt imm) s = .next t ∧
        HoldsValue s (s.readX rs + imm.signExtend 64).toNat 32 v ∧ WritesV s t rt v 0) ∧
    ∀ c, s.accessFault .read (s.readX rs + imm.signExtend 64) 32 = some c →
      exec (.vld rs rt imm) s = .next { s with op := .faulted c } := by
  have hexec : exec (.vld rs rt imm) s = execVld rs rt imm s := rfl
  rw [hexec, execVld, offsetAddress_eq_add]
  constructor
  · intro hok
    rw [memRead_ok hok]
    exact ⟨_, _, rfl, holdsValue_load s _ 32, writesV_writeV s rt _⟩
  · intro c hfault
    rw [memRead_error hfault]
    rfl

/-- Everything `vst` does (45/R348). -/
theorem exec_vst_spec (rs rt : RegNum) (imm : BitVec 15) (s : State) (hwf : Memory.wf s.mem) :
    StoresValue (.vst rs rt imm) s 32 (s.readX rs + imm.signExtend 64) (s.readV rt) := by
  have hexec : exec (.vst rs rt imm) s = execVst rs rt imm s := rfl
  rw [StoresValue, hexec, execVst, offsetAddress_eq_add]
  constructor
  · intro hok
    rw [memWrite_ok _ hok]
    exact ⟨_, rfl, writesBytes_store s _ 32 _ hwf⟩
  · intro c hfault
    rw [memWrite_error _ hfault]
    rfl

/-! ### The instructions -/

/-- Settles O36: each is a compare of lanes as bit patterns or as signed numbers. -/
theorem integerCompares : Obligations.IntegerCompares := fun _ _ _ _ =>
  ⟨⟨encodeR_eq_wordR rfl rfl, exec_compareLanes rfl fun _ => zeroOne_of_iff beq_iff_eq⟩,
    ⟨encodeR_eq_wordR rfl rfl, exec_compareLanes rfl fun _ => zeroOne_of_iff beq_iff_eq⟩,
    ⟨encodeR_eq_wordR rfl rfl, exec_compareLanes rfl fun _ => zeroOne_signedLess 32 _ _⟩,
    ⟨encodeR_eq_wordR rfl rfl, exec_compareLanes rfl fun _ => zeroOne_signedLess 64 _ _⟩⟩

/-- Settles O37: each is a compare of the data the lanes stand for, and the two tests decide the relations of the
extended line. -/
theorem floatCompares : Obligations.FloatCompares := fun _ _ _ _ =>
  ⟨⟨encodeR_eq_wordR rfl rfl, exec_floatCompare equal_iff_ordered rfl⟩,
    ⟨encodeR_eq_wordR rfl rfl, exec_floatCompare equal_iff_ordered rfl⟩,
    ⟨encodeR_eq_wordR rfl rfl, exec_floatCompare less_iff_ordered rfl⟩,
    ⟨encodeR_eq_wordR rfl rfl, exec_floatCompare less_iff_ordered rfl⟩⟩

/-- Settles O40: each is one write of the sum of the lanes. -/
theorem integerSums : Obligations.IntegerSums := fun rs _ _ s =>
  ⟨⟨encodeR_eq_wordR rfl rfl, exec_writeX rfl (congrArg sext32 (sumLanes_32 (s.readV rs)))⟩,
    ⟨encodeR_eq_wordR rfl rfl, exec_writeX rfl (sumLanes_64 (s.readV rs))⟩⟩

/-- Settles O42: each packs one bit of every lane; only the bit differs. -/
theorem bitExtraction : Obligations.BitExtraction := fun _ _ _ _ =>
  ⟨⟨encodeR_eq_wordR rfl rfl, exec_packBits (w := 32) (by decide) rfl⟩,
    ⟨encodeR_eq_wordR rfl rfl, exec_packBits (w := 64) (by decide) rfl⟩,
    ⟨encodeR_eq_wordR rfl rfl, exec_packBits (w := 32) (by decide) rfl⟩,
    ⟨encodeR_eq_wordR rfl rfl, exec_packBits (w := 64) (by decide) rfl⟩⟩

/-- Settles O43: each is a shuffle, with indices of three bits for eight lanes and of two for four. -/
theorem shuffles : Obligations.Shuffles := fun _ _ _ _ =>
  ⟨⟨encodeR_eq_wordR rfl rfl, exec_shuffle rfl⟩, ⟨encodeR_eq_wordR rfl rfl, exec_shuffle rfl⟩⟩

/-- Settles O44: each is one checked access of 32 bytes at base plus signed offset. -/
theorem vectorLoadStore : Obligations.VectorLoadStore := fun rs rt imm s =>
  ⟨⟨encodeI_eq_wordI rfl, exec_vld_spec rs rt imm s⟩, ⟨encodeI_eq_wordI rfl, exec_vst_spec rs rt imm s⟩⟩

end Sys2Proof.Machine
end

section
/-! PROOFS. The directed roundings of the conversions (45/R321): on the magnitudes of a format toward and away from
zero, and on a quotient as the spec's rounding of the rational. -/

namespace Sys2Proof.Machine

/-! ### The pattern below a magnitude -/

/-- The greatest magnitude pattern with no more than `num` quanta: the significand without the bits it drops. -/
def FloatFormat.truncated (F : FloatFormat) (num : Nat) : Nat :=
  F.dropped num * 2 ^ F.fracBits + num / 2 ^ F.dropped num

section Truncated
variable (F : FloatFormat) (num : Nat)

/-- The model rounds a whole number of quanta to the pattern below or to the next one. -/
theorem FloatFormat.roundMagnitude_whole (mode : RoundMode) (neg : Bool) :
    F.roundMagnitude mode neg num 1 = min (F.truncated num +
      if roundsAway mode neg (num / 2 ^ F.dropped num) (num % 2 ^ F.dropped num) (2 ^ F.dropped num) then 1 else 0)
      F.infPattern := by
  simp only [FloatFormat.roundMagnitude, FloatFormat.truncated, roundQuotient, Nat.div_one, Nat.one_mul, Nat.add_assoc]

/-- The dropped bits are what the pattern below lacks. -/
theorem FloatFormat.quanta_truncated_add :
    F.quanta (F.truncated num) + num % 2 ^ F.dropped num = num := by
  obtain ⟨hlt, hnormal⟩ := F.dropped_spec num 1
  simp only [Nat.div_one, Nat.one_mul] at hlt hnormal
  rw [FloatFormat.truncated, F.quanta_shifted _ _ hlt.le hnormal, Nat.div_add_mod']

theorem FloatFormat.lt_quanta_truncated_succ : num < F.quanta (F.truncated num + 1) := by
  obtain ⟨hlt, hnormal⟩ := F.dropped_spec num 1
  simp only [Nat.div_one, Nat.one_mul] at hlt hnormal
  rw [FloatFormat.truncated, Nat.add_assoc,
    F.quanta_shifted _ _ (Nat.succ_le_of_lt hlt) (hnormal.imp_right Nat.le_succ_of_le)]
  exact Nat.lt_mul_of_div_lt (Nat.lt_succ_self _) (Nat.two_pow_pos _)

end Truncated

/-! ### Toward and away from zero -/

/-- Pattern `m` has the most quanta not above `num`. -/
def TowardZero (F : FloatFormat) (num m : Nat) : Prop :=
  F.quanta m ≤ num ∧ ∀ other, F.quanta other ≤ num → F.quanta other ≤ F.quanta m

/-- Pattern `m` has the fewest quanta not below `num`. -/
def AwayFromZero (F : FloatFormat) (num m : Nat) : Prop :=
  num ≤ F.quanta m ∧ ∀ other, num ≤ F.quanta other → F.quanta m ≤ F.quanta other

section Directed
variable {F : FloatFormat} {num : Nat}

theorem towardZero_truncated : TowardZero F num (F.truncated num) := by
  have hbelow := F.quanta_truncated_add num
  refine ⟨by omega, fun other hother => F.quanta_strictMono.monotone ?_⟩
  exact Nat.lt_succ_iff.mp (F.quanta_strictMono.lt_iff_lt.mp (hother.trans_lt (F.lt_quanta_truncated_succ num)))

/-- Where no bit is dropped both directions end at the same pattern. -/
theorem awayFromZero_of_eq {m : Nat} (h : F.quanta m = num) : AwayFromZero F num m :=
  ⟨h.ge, fun _ => h.trans_le⟩

theorem awayFromZero_truncated_succ (h : F.quanta (F.truncated num) < num) :
    AwayFromZero F num (F.truncated num + 1) := by
  refine ⟨(F.lt_quanta_truncated_succ num).le, fun other hother => F.quanta_strictMono.monotone ?_⟩
  exact F.quanta_strictMono.lt_iff_lt.mp (h.trans_le hother)

/-- The magnitude is finite: it is not past the largest finite pattern. -/
def FitsFinite (F : FloatFormat) (num : Nat) : Prop := num ≤ F.quanta (F.infPattern - 1)

theorem succ_lt_infPattern_of_quanta_lt (hfits : FitsFinite F num) {m : Nat} (h : F.quanta m < num) :
    m + 1 < F.infPattern := by
  have hlt : m < F.infPattern - 1 := F.quanta_strictMono.lt_iff_lt.mp (h.trans_le hfits)
  omega

variable (hF : F.HasFields) (hfits : FitsFinite F num)
include hF hfits

theorem lt_infPattern_of_quanta_le {m : Nat} (h : F.quanta m ≤ num) : m < F.infPattern := by
  have hpos := (F.infPattern_even hF.frac hF.exp).2
  have hle : m ≤ F.infPattern - 1 := F.quanta_strictMono.le_iff_le.mp (h.trans hfits)
  omega

/-- A rounding that never goes up in magnitude goes toward zero. -/
theorem roundMagnitude_towardZero {mode : RoundMode} {neg : Bool}
    (hmode : ∀ m rem den, roundsAway mode neg m rem den = false) :
    F.roundMagnitude mode neg num 1 < F.infPattern ∧ TowardZero F num (F.roundMagnitude mode neg num 1) := by
  have hlt := lt_infPattern_of_quanta_le hF hfits towardZero_truncated.1
  rw [F.roundMagnitude_whole, hmode, if_neg Bool.false_ne_true, Nat.add_zero, min_eq_left hlt.le]
  exact ⟨hlt, towardZero_truncated⟩

/-- A rounding that goes up in magnitude whenever it drops a bit goes away from zero. -/
theorem roundMagnitude_awayFromZero {mode : RoundMode} {neg : Bool}
    (hmode : ∀ m rem den, roundsAway mode neg m rem den = (rem != 0)) :
    F.roundMagnitude mode neg num 1 < F.infPattern ∧ AwayFromZero F num (F.roundMagnitude mode neg num 1) := by
  have hbelow := F.quanta_truncated_add num
  rw [F.roundMagnitude_whole, hmode]
  by_cases hexact : num % 2 ^ F.dropped num = 0
  · rw [hexact, Nat.add_zero] at hbelow
    have hlt := lt_infPattern_of_quanta_le hF hfits hbelow.le
    rw [if_neg (by simp [hexact]), Nat.add_zero, min_eq_left hlt.le]
    exact ⟨hlt, awayFromZero_of_eq hbelow⟩
  · have hinexact : F.quanta (F.truncated num) < num := by omega
    have hlt := succ_lt_infPattern_of_quanta_lt hfits hinexact
    rw [if_pos (by simp [hexact]), min_eq_left hlt.le]
    exact ⟨hlt, awayFromZero_truncated_succ hinexact⟩

/-- To nearest, a magnitude that fits does not become infinity. -/
theorem roundMagnitude_nearest_lt (neg : Bool) : F.roundMagnitude .nearest neg num 1 < F.infPattern := by
  have hpos := (F.infPattern_even hF.frac hF.exp).2
  have hstep : F.quanta (F.infPattern - 1) < F.quanta F.infPattern := F.quanta_strictMono (by omega)
  have hnearest := F.roundMagnitude_nearest hF.frac hF.exp neg num 1 Nat.one_pos
  rw [NearestMagnitude, if_neg (by unfold FitsFinite at hfits; omega)] at hnearest
  exact hnearest.1

end Directed

/-! ### Powers of two -/

/-- The number `2 ^ n` has exponent `n` above the bias and fraction 0. -/
theorem FloatFormat.quanta_two_pow (F : FloatFormat) (hF : F.HasFields) {n : Nat} (hn : 0 < n) :
    F.quanta ((2 ^ (F.expBits - 1) - 1 + n) * 2 ^ F.fracBits) = 2 ^ n * 2 ^ F.unit := by
  have hfrac := hF.frac
  have hquanta := F.quanta_normal (e := 2 ^ (F.expBits - 1) - 1 + n) (by omega) (Nat.two_pow_pos F.fracBits)
  rw [Nat.add_zero, Nat.add_zero, ← Nat.pow_add] at hquanta
  rw [hquanta, ← Nat.pow_add, FloatFormat.unit]
  congr 1
  omega

/-! ### Signed quanta -/

@[simp] theorem signedQuanta_false (q : Nat) : signedQuanta false q = q := rfl
@[simp] theorem signedQuanta_true (q : Nat) : signedQuanta true q = -q := rfl

/-- The opposite sign negates. -/
theorem signedQuanta_not (neg : Bool) (q : Nat) : signedQuanta (!neg) q = -signedQuanta neg q := by
  cases neg <;> simp

theorem signedQuanta_natAbs (i : Int) (u : Nat) : signedQuanta (decide (i < 0)) (i.natAbs * 2 ^ u) = i * 2 ^ u := by
  by_cases hneg : i < 0
  · simp [hneg, abs_of_neg hneg]
  · simp [hneg, abs_of_nonneg (not_lt.mp hneg)]

/-- Toward zero is down for a magnitude without a sign, against data of either sign. -/
theorem TowardZero.signed_le {F : FloatFormat} {num m : Nat} (h : TowardZero F num m) (n : Bool) (other : Nat)
    (hle : signedQuanta n (F.quanta other) ≤ num) : signedQuanta n (F.quanta other) ≤ F.quanta m := by
  have hother := h.2 other
  cases n <;> simp only [signedQuanta_false, signedQuanta_true] at hle ⊢ <;> omega

/-- Away from zero is up for a magnitude without a sign. -/
theorem AwayFromZero.le_signed {F : FloatFormat} {num m : Nat} (h : AwayFromZero F num m) (n : Bool) (other : Nat)
    (hge : num ≤ signedQuanta n (F.quanta other)) : F.quanta m ≤ signedQuanta n (F.quanta other) := by
  have hother := h.2 other
  cases n <;> simp only [signedQuanta_false, signedQuanta_true] at hge ⊢ <;> omega

/-! ### The float of an integer (45/R333, R334) -/

/-- What the model writes for an integer that fits is the spec's rounding: down is toward zero for a positive number and
away from it for a negative one, and up the other way around. -/
theorem isConverted_ofInt {F : FloatFormat} (hF : F.HasFields) (mode : RoundMode) {i : Int}
    (hfits : FitsFinite F (i.natAbs * 2 ^ F.unit)) : IsConverted F mode i (F.ofInt mode i) := by
  have hvalue := signedQuanta_natAbs i F.unit
  unfold FloatFormat.ofInt IsConverted
  generalize decide (i < 0) = neg at hvalue ⊢
  rw [← hvalue]
  generalize i.natAbs * 2 ^ F.unit = num at hfits ⊢
  match mode, neg with
  | .nearest, neg =>
    exact ⟨_, roundMagnitude_nearest_lt hF hfits neg, rfl,
      F.roundMagnitude_nearest hF.frac hF.exp neg num 1 Nat.one_pos⟩
  | .floor, false =>
    obtain ⟨hlt, htoward⟩ := roundMagnitude_towardZero hF hfits (mode := .floor) (neg := false) fun _ _ _ => rfl
    exact ⟨_, hlt, rfl, Int.ofNat_le.mpr htoward.1, fun n other _ => htoward.signed_le n other⟩
  | .ceil, false =>
    obtain ⟨hlt, haway⟩ := roundMagnitude_awayFromZero hF hfits (mode := .ceil) (neg := false) fun _ _ _ => rfl
    exact ⟨_, hlt, rfl, Int.ofNat_le.mpr haway.1, fun n other _ => haway.le_signed n other⟩
  | .floor, true =>
    obtain ⟨hlt, haway⟩ := roundMagnitude_awayFromZero hF hfits (mode := .floor) (neg := true) fun _ _ _ => rfl
    refine ⟨_, hlt, rfl, Int.neg_le_neg (Int.ofNat_le.mpr haway.1), fun n other _ hle => ?_⟩
    have hleast := haway.le_signed (!n) other
    rw [signedQuanta_not] at hleast
    exact Int.le_neg_of_le_neg (hleast (Int.le_neg_of_le_neg hle))
  | .ceil, true =>
    obtain ⟨hlt, htoward⟩ := roundMagnitude_towardZero hF hfits (mode := .ceil) (neg := true) fun _ _ _ => rfl
    refine ⟨_, hlt, rfl, Int.neg_le_neg (Int.ofNat_le.mpr htoward.1), fun n other _ hge => ?_⟩
    have hgreatest := htoward.signed_le (!n) other
    rw [signedQuanta_not] at hgreatest
    exact Int.neg_le_of_neg_le (hgreatest (Int.neg_le_of_neg_le hge))

/-! ### The integer of a float (45/R335, R336) -/

section Quotient
variable (neg : Bool) (q d : Nat)

/-- Down is the quotient of the signed number. -/
theorem signedQuanta_floorQuotient (hd : 0 < d) :
    signedQuanta neg (roundQuotient .floor neg q d) = signedQuanta neg q / d := by
  cases neg with
  | false => simp [roundQuotient, roundsAway]
  | true =>
    have hdvd : ((d : Int) ∣ q) ↔ q % d = 0 := by rw [Int.natCast_dvd_natCast, Nat.dvd_iff_mod_eq_zero]
    by_cases hexact : q % d = 0
    · simp [roundQuotient, roundsAway, Int.neg_ediv, hdvd, hexact]
    · have hsign : (d : Int).sign = 1 := Int.sign_eq_one_of_pos (by omega)
      simp [roundQuotient, roundsAway, Int.neg_ediv, hdvd, hexact, hsign]
      ring

/-- Up is down with the sign turned. -/
theorem roundQuotient_ceil : roundQuotient .ceil neg q d = roundQuotient .floor (!neg) q d := rfl

end Quotient

theorem isRounded_ceil_iff (x : Rat) (r : Int) : IsRounded .ceil x r ↔ IsRounded .floor (-x) (-r) := by
  simp [IsRounded, Int.floor_neg]

theorem finiteValue_not (F : FloatFormat) (neg : Bool) (q : Nat) : finiteValue F (!neg) q = -finiteValue F neg q := by
  simp [finiteValue, signedQuanta_not, neg_div]

theorem isRounded_floor (F : FloatFormat) (neg : Bool) (q : Nat) :
    IsRounded .floor (finiteValue F neg q) (signedQuanta neg (roundQuotient .floor neg q (2 ^ F.unit))) := by
  have hfloor := Rat.floor_intCast_div_natCast (signedQuanta neg q) (2 ^ F.unit)
  rw [← signedQuanta_floorQuotient neg q _ (Nat.two_pow_pos _)] at hfloor
  rw [IsRounded, finiteValue, ← hfloor]
  push_cast
  rfl

theorem isRounded_ceil (F : FloatFormat) (neg : Bool) (q : Nat) :
    IsRounded .ceil (finiteValue F neg q) (signedQuanta neg (roundQuotient .ceil neg q (2 ^ F.unit))) := by
  rw [isRounded_ceil_iff, ← finiteValue_not, ← signedQuanta_not, roundQuotient_ceil]
  exact isRounded_floor F (!neg) q

/-- A sign turned on both sides keeps a rounding to nearest. -/
theorem IsRounded.neg_nearest {x : Rat} {r : Int} (h : IsRounded .nearest x r) : IsRounded .nearest (-x) (-r) := by
  obtain ⟨hnear, htie⟩ := h
  have hdistance : |((-r : Int) : Rat) - -x| = |(r : Rat) - x| := by
    rw [← abs_neg]; push_cast; ring_nf
  rw [IsRounded, hdistance]
  exact ⟨hnear, fun h => by have := htie h; omega⟩

/-- A quotient rounded to nearest is at most half from the rational, and even at half. -/
theorem isRounded_nearest_quotient (q : Nat) {d : Nat} (hd : 0 < d) :
    IsRounded .nearest ((q : Rat) / d) (roundQuotient .nearest false q d) := by
  have hbounds := roundQuotient_nearest false q d hd
  generalize roundQuotient .nearest false q d = r at hbounds ⊢
  have hpos : (0 : Rat) < d := Nat.cast_pos.mpr hd
  have hdistance : 2 * |((r : Int) : Rat) - q / d| = ((2 * |((r * d : Nat) : Int) - q| : Int) : Rat) / d := by
    rw [sub_div' hpos.ne', abs_div, abs_of_pos hpos, mul_div_assoc']
    push_cast
    rfl
  rw [IsRounded, hdistance, div_le_one hpos, div_eq_one_iff_eq hpos.ne', ← Int.cast_natCast d, Int.cast_le,
    Int.cast_inj]
  rw [Nat.mul_assoc] at hbounds
  generalize r * d = scaled at hbounds ⊢
  rcases abs_cases ((scaled : Int) - q) with ⟨h, _⟩ | ⟨h, _⟩ <;> rw [h] <;> omega

theorem isRounded_nearest (F : FloatFormat) (neg : Bool) (q : Nat) :
    IsRounded .nearest (finiteValue F neg q) (signedQuanta neg (roundQuotient .nearest neg q (2 ^ F.unit))) := by
  have hpositive := isRounded_nearest_quotient q (Nat.two_pow_pos F.unit)
  rw [Nat.cast_pow, Nat.cast_ofNat] at hpositive
  cases neg with
  | false => exact hpositive
  | true => exact finiteValue_not F false q ▸ hpositive.neg_nearest

theorem isRounded_roundQuotient (F : FloatFormat) (mode : RoundMode) (neg : Bool) (q : Nat) :
    IsRounded mode (finiteValue F neg q) (signedQuanta neg (roundQuotient mode neg q (2 ^ F.unit))) :=
  match mode with
  | .nearest => isRounded_nearest F neg q
  | .floor => isRounded_floor F neg q
  | .ceil => isRounded_ceil F neg q

/-- Two integers next to each other can both be nearest only at a tie, where one of them is odd. -/
theorem IsRounded.le_of_nearest {x : Rat} {r r' : Int} (h : IsRounded .nearest x r) (h' : IsRounded .nearest x r') :
    r' ≤ r := by
  obtain ⟨hnear, htie⟩ := h
  obtain ⟨hnear', htie'⟩ := h'
  by_contra hlt
  have hsucc : (r : Rat) + 1 ≤ r' := by exact_mod_cast not_le.mp hlt
  have hbelow : x - r ≤ |(r : Rat) - x| := by rw [abs_sub_comm]; exact le_abs_self _
  have habove : r' - x ≤ |(r' : Rat) - x| := le_abs_self _
  have heven := htie (by linarith)
  have heven' := htie' (by linarith)
  have hnext : (r' : Rat) = ((r + 1 : Int) : Rat) := by push_cast; linarith
  have hstep : r' = r + 1 := Int.cast_injective hnext
  omega

/-- A rounding has one result. -/
theorem IsRounded.unique {mode : RoundMode} {x : Rat} {r r' : Int} (h : IsRounded mode x r) (h' : IsRounded mode x r') :
    r = r' := by
  match mode with
  | .nearest => exact le_antisymm (h'.le_of_nearest h) (h.le_of_nearest h')
  | .floor => exact h.trans h'.symm
  | .ceil => exact h.trans h'.symm

end Sys2Proof.Machine
end

section
/-! PROOFS. Conversions and float sums (45_vector_misc.md): that a conversion rounds as its selector says or raises
`CvtModeFault`, that a float sum adds the lanes in order with each addition correctly rounded, and that nothing but the
destination changes. -/

namespace Sys2Proof.Machine

/-! ### Formats that fill a lane -/

/-- The format's patterns are the `w`-bit lanes, and every signed number of `w` bits is in its range. -/
structure FloatFormat.FillsLane (F : FloatFormat) (w : Nat) : Prop extends F.HasFields where
  width : w = F.expBits + F.fracBits + 1
  range : 2 ^ (F.expBits - 1) - 1 + (w - 1) < 2 ^ F.expBits - 1

theorem binary32_fillsLane : binary32.FillsLane 32 := ⟨binary32_hasFields, rfl, by decide⟩
theorem binary64_fillsLane : binary64.FillsLane 64 := ⟨binary64_hasFields, rfl, by decide⟩

section FillsLane
variable {F : FloatFormat} {w : Nat} (hF : F.FillsLane w)
include hF

theorem FloatFormat.FillsLane.two_pow : 2 ^ w = 2 * F.signBit := by
  rw [hF.width, Nat.pow_succ, Nat.mul_comm, FloatFormat.signBit]

/-- No signed number of a lane is past the largest finite magnitude. -/
theorem fitsFinite_toInt (a : BitVec w) : FitsFinite F (a.toInt.natAbs * 2 ^ F.unit) := by
  have hwidth := hF.width
  have hexp := hF.exp
  have habs : a.toInt.natAbs ≤ 2 ^ (w - 1) := by
    have hlow := a.le_toInt
    have hhigh := a.toInt_lt
    zify
    exact abs_le.mpr ⟨hlow, hhigh.le⟩
  have hpower := F.fields_lt_infPattern hF.range (Nat.two_pow_pos F.fracBits)
  calc a.toInt.natAbs * 2 ^ F.unit ≤ 2 ^ (w - 1) * 2 ^ F.unit := Nat.mul_le_mul_right _ habs
    _ = F.quanta ((2 ^ (F.expBits - 1) - 1 + (w - 1)) * 2 ^ F.fracBits) :=
      (F.quanta_two_pow hF.toHasFields (by omega)).symm
    _ ≤ F.quanta (F.infPattern - 1) := F.quanta_strictMono.monotone (by omega)

/-- An integer lane becomes the pattern of its rounding (45/R333, R334). -/
theorem isConverted_intToFloat (mode : RoundMode) (a : BitVec w) :
    IsConverted F mode a.toInt (intToFloat F mode a).toNat := by
  have hconverted := isConverted_ofInt hF.toHasFields mode (fitsFinite_toInt hF a)
  have hlt : F.ofInt mode a.toInt < 2 ^ w := by
    obtain ⟨m, hm, hpattern, _⟩ := hconverted
    rw [hF.two_pow, hpattern]
    exact F.signed_lt _ (hm.trans F.infPattern_lt_signBit)
  rwa [intToFloat, BitVec.toNat_ofNat, Nat.mod_eq_of_lt hlt]

/-- A float lane whose rounded value is in the signed range becomes that integer, whatever the free value (45/R335,
R336). -/
theorem toInt_floatToInt {mode : RoundMode} {draw : BitVec 64} {a : BitVec w} {neg : Bool} {q : Nat} {i : Int}
    (hdatum : F.datum a.toNat = .fin neg q) (hrounded : IsRounded mode (finiteValue F neg q) i)
    (hlow : -2 ^ (w - 1) ≤ i) (hhigh : i < 2 ^ (w - 1)) : (floatToInt F mode draw a).toInt = i := by
  have hwidth := hF.width
  have hvalue : F.toInt mode (F.datum a.toNat) = some i := by
    rw [hdatum, FloatFormat.toInt, (isRounded_roundQuotient F mode neg q).unique hrounded]
  have hfits : fitsSigned w i = true := by simp [fitsSigned, hlow, hhigh]
  rw [floatToInt, hvalue]
  simp only [hfits, if_true]
  exact BitVec.toInt_ofInt_eq_self (by omega) hlow hhigh

end FillsLane

/-! ### Conversions (45/R321) -/

/-- The rounding that a selector names. -/
def SelectsRounding (selector : BitVec 2) (mode : RoundMode) : Prop :=
  selector.toNat = 0 ∧ mode = .nearest ∨ selector.toNat = 1 ∧ mode = .floor ∨ selector.toNat = 2 ∧ mode = .ceil

theorem SelectsRounding.cvtMode {selector : BitVec 2} {mode : RoundMode} (h : SelectsRounding selector mode) :
    config.cvtMode selector = some mode := by
  change roundingOfSelector selector = some mode
  unfold roundingOfSelector
  obtain ⟨hselector, rfl⟩ | ⟨hselector, rfl⟩ | ⟨hselector, rfl⟩ := h <;> simp only [hselector]

theorem cvtMode_three {selector : BitVec 2} (h : selector.toNat = 3) : config.cvtMode selector = none := by
  change roundingOfSelector selector = none
  simp only [roundingOfSelector, h]

section Convert
variable {i : Instr} {s : State} {w draws : Nat} {rs rt rd : RegNum}

/-- A conversion with a rounding writes the lanes of that rounding and nothing else. -/
theorem exec_convertOp_selected {f : RoundMode → Nat → BitVec w} {mode : RoundMode}
    (hexec : exec i s = .next (convertOp i (fun mode => ofLanes w (f mode)) draws rt rd s))
    (hmode : SelectsRounding ((s.readX rt).extractLsb' 0 2) mode) :
    ∃ t, exec i s = .next t ∧ WritesLanes w s t rd (f mode) draws := by
  rw [convertOp, hmode.cvtMode] at hexec
  exact ⟨_, hexec, writesLanes_drew s rd (f mode) draws⟩

/-- A conversion without a rounding raises `CvtModeFault` with the instruction's word (60/R419). -/
theorem exec_convertOp_three {lanes : RoundMode → VWord}
    (hexec : exec i s = .next (convertOp i lanes draws rt rd s))
    (hselector : ((s.readX rt).extractLsb' 0 2).toNat = 3) :
    exec i s = .next { s with op := .faulted (.cvtModeFault (encode i)) } := by
  rw [convertOp, cvtMode_three hselector] at hexec
  exact hexec

variable {F : FloatFormat} (hF : F.FillsLane w)
include hF

/-- Everything a conversion of integer lanes does. -/
theorem exec_intToFloat (hexec : exec i s = .next (convertOp i (intToFloatLanes w F (s.readV rs)) draws rt rd s)) :
    (∀ mode, SelectsRounding ((s.readX rt).extractLsb' 0 2) mode →
      ∃ t draws, ∃ r : Nat → BitVec w, exec i s = .next t ∧ WritesLanes w s t rd r draws ∧
        ∀ k, k < laneCount w → IsConverted F mode (lane w k (s.readV rs)).toInt (r k).toNat) ∧
    (((s.readX rt).extractLsb' 0 2).toNat = 3 →
      exec i s = .next { s with op := .faulted (.cvtModeFault (encode i)) }) := by
  refine ⟨fun mode hmode => ?_, exec_convertOp_three hexec⟩
  obtain ⟨t, ht, hwrites⟩ := exec_convertOp_selected hexec hmode
  exact ⟨t, _, _, ht, hwrites, fun _ _ => isConverted_intToFloat hF mode _⟩

/-- Everything a conversion of float lanes does. -/
theorem exec_floatToInt (hexec : exec i s = .next (convertOp i (floatToIntLanes w F rs s) draws rt rd s)) :
    (∀ mode, SelectsRounding ((s.readX rt).extractLsb' 0 2) mode →
      ∃ t draws, ∃ r : Nat → BitVec w, exec i s = .next t ∧ WritesLanes w s t rd r draws ∧
        ∀ k, k < laneCount w → ∀ neg q i, F.datum (lane w k (s.readV rs)).toNat = .fin neg q →
          IsRounded mode (finiteValue F neg q) i → -2 ^ (w - 1) ≤ i → i < 2 ^ (w - 1) → (r k).toInt = i) ∧
    (((s.readX rt).extractLsb' 0 2).toNat = 3 →
      exec i s = .next { s with op := .faulted (.cvtModeFault (encode i)) }) := by
  refine ⟨fun mode hmode => ?_, exec_convertOp_three hexec⟩
  obtain ⟨t, ht, hwrites⟩ := exec_convertOp_selected hexec hmode
  exact ⟨t, _, _, ht, hwrites, fun _ _ _ _ _ => toInt_floatToInt hF⟩

end Convert

/-! ### Float sums (45/R322) -/

/-- The accumulator of a float sum after lane `k` is added. -/
def floatAccumulator (w : Nat) (F : FloatFormat) (rs : RegNum) (s : State) : Nat → BitVec w
  | 0 => lane w 0 (s.readV rs)
  | k + 1 => floatLane F config.fp.add (s.freeDraw (k + 1)) (floatAccumulator w F rs s k) (lane w (k + 1) (s.readV rs))

/-- The model's fold goes through the accumulators. -/
theorem foldl_eq_floatAccumulator (w : Nat) (F : FloatFormat) (rs : RegNum) (s : State) (n : Nat) :
    (List.range' 1 n).foldl (fun acc k => floatLane F config.fp.add (s.freeDraw k) acc (lane w k (s.readV rs)))
      (lane w 0 (s.readV rs)) = floatAccumulator w F rs s n := by
  induction n with
  | zero => rfl
  | succ n ih => rw [List.range'_1_concat, List.foldl_append, ih, Nat.add_comm]; rfl

theorem sumFloatLanes_eq_floatAccumulator (w : Nat) (F : FloatFormat) (rs : RegNum) (s : State) :
    sumFloatLanes w F rs s = floatAccumulator w F rs s (laneCount w - 1) :=
  foldl_eq_floatAccumulator w F rs s (laneCount w - 1)

/-- Everything a float sum does, at either width of its result. -/
theorem exec_floatSum {F : FloatFormat} {w n : Nat} (hF : F.FillsLane w) (widen : BitVec w → Word) {i : Instr}
    {s : State} {rs rd : RegNum} (hexec : exec i s = .next ((s.writeX rd (widen (sumFloatLanes w F rs s))).drew n)) :
    ∃ t draws, ∃ a : Nat → BitVec w, exec i s = .next t ∧ WritesX s t rd (widen (a (laneCount w - 1))) draws ∧
      a 0 = lane w 0 (s.readV rs) ∧ ∀ k, k < laneCount w - 1 →
        IsSum F (F.datum (a k).toNat) (F.datum (lane w (k + 1) (s.readV rs)).toNat) (a (k + 1)).toNat := by
  rw [sumFloatLanes_eq_floatAccumulator] at hexec
  exact ⟨_, _, floatAccumulator w F rs s, hexec, writesX_writeX_drew s rd _ n, rfl,
    fun _ _ => floatLane_spec hF.two_pow (writesPattern_add hF.toHasFields _ _) _⟩

/-! ### The instructions -/

/-- Settles O38: each is a conversion of integer lanes, whose numbers are all in the range of the format. -/
theorem integerToFloat : Obligations.IntegerToFloat := fun _ _ _ _ =>
  ⟨⟨encodeR_eq_wordR rfl rfl, exec_intToFloat binary32_fillsLane rfl⟩,
    ⟨encodeR_eq_wordR rfl rfl, exec_intToFloat binary64_fillsLane rfl⟩⟩

/-- Settles O39: each is a conversion of float lanes, and a rounding has one result. -/
theorem floatToInteger : Obligations.FloatToInteger := fun _ _ _ _ =>
  ⟨⟨encodeR_eq_wordR rfl rfl, exec_floatToInt binary32_fillsLane rfl⟩,
    ⟨encodeR_eq_wordR rfl rfl, exec_floatToInt binary64_fillsLane rfl⟩⟩

/-- Settles O41: each is a float sum; only a binary32 pattern leaves bits to extend. -/
theorem floatSums : Obligations.FloatSums := fun _ _ _ _ =>
  ⟨⟨encodeR_eq_wordR rfl rfl, exec_floatSum binary32_fillsLane (·.setWidth 64) rfl⟩,
    ⟨encodeR_eq_wordR rfl rfl, exec_floatSum binary64_fillsLane id rfl⟩⟩

end Sys2Proof.Machine
end

section
/-! PROOFS. The services of `syscall` without a buffer or a file (46_syscall.md): console output, numbers read from the
host, exit and sbrk; and what no service does to the registers. The rules for the dispatch, for results and for strings
stand first. -/

namespace Sys2Proof.Machine

/-! ### The dispatch (46/R361, R362) -/

/-- `syscall` with the number of a service runs the service, whatever its address field is. -/
theorem exec_service {s : State} {n : Word} {result : Result} (service : Service) (addr : BitVec 25)
    (hnum : s.readX 2#5 = n) (hservice : serviceOfNumber n = some service) (hrun : runService service s = result) :
    exec (.syscall addr) s = result := by
  subst hnum hrun
  change execSyscall s = runService service s
  unfold execSyscall
  dsimp only
  rw [show config.service (s.readX config.serviceReg) = some service from hservice]

/-- The same for a service that always answers a next state, which may be named by any term for it. -/
theorem exec_service_next {s t u : State} {n : Word} (service : Service) (addr : BitVec 25)
    (hnum : s.readX 2#5 = n) (hservice : serviceOfNumber n = some service) (hrun : runService service s = .next u)
    (hstate : u = t) : exec (.syscall addr) s = .next t :=
  exec_service service addr hnum hservice (hrun.trans (congrArg _ hstate))

theorem State.arg_zero (s : State) : s.arg 0 = s.readX 4#5 := rfl
theorem State.arg_one (s : State) : s.arg 1 = s.readX 5#5 := rfl
theorem State.arg_two (s : State) : s.arg 2 = s.readX 6#5 := rfl

/-! ### Results (46/R361) -/

/-- A result is written to register 2 after an operation that kept the registers. -/
theorem RegistersKept.answer {s t : State} (h : RegistersKept s t) (w : Word) : ReturnsX2 s (t.answer w) w where
  result := t.readX_writeX_same 2#5 w
  others r hr := (t.readX_writeX_other 2#5 w r hr).trans (h.general r)
  vectors := h.vectors
  hi := h.hi
  lo := h.lo
  pc := h.pc
  kernel := h.kernel

theorem registersKept_refl (s : State) : RegistersKept s s := ⟨fun _ => rfl, fun _ => rfl, rfl, rfl, rfl, rfl⟩

theorem registersKept_asked (s : State) : RegistersKept s s.asked := ⟨fun _ => rfl, fun _ => rfl, rfl, rfl, rfl, rfl⟩

theorem RegistersKept.emit {s t : State} (h : RegistersKept s t) (e : HostEvent) : RegistersKept s (t.emit e) :=
  ⟨h.general, h.vectors, h.hi, h.lo, h.pc, h.kernel⟩

/-- An instruction that ends with a result in register 2 and did nothing before. -/
theorem exec_answer {i : Instr} {s : State} {w : Word} (hexec : exec i s = .next (s.answer w)) :
    ∃ t, exec i s = .next t ∧ ReturnsX2 s t w ∧ MemoryKept s t ∧ RunKept s t ∧ NotAsked s t ∧ t.trace = s.trace :=
  ⟨_, hexec, (registersKept_refl s).answer w, ⟨fun _ => rfl, rfl, rfl⟩, ⟨rfl, rfl, rfl⟩, ⟨rfl, rfl⟩, rfl⟩

/-- An instruction that asks the host and ends with a result in register 2. -/
theorem exec_asked_answer {i : Instr} {s : State} {w : Word} (hexec : exec i s = .next (s.asked.answer w)) :
    ∃ t, exec i s = .next t ∧ ReturnsX2 s t w ∧ MemoryKept s t ∧ RunKept s t ∧ AnswerUsed s t ∧ t.trace = s.trace :=
  ⟨_, hexec, (registersKept_asked s).answer w, ⟨fun _ => rfl, rfl, rfl⟩, ⟨rfl, rfl, rfl⟩, ⟨rfl, rfl⟩, rfl⟩

/-! ### Strings (46/R364) -/

theorem withString_found {s : State} {a : Word} {bytes : List Byte} (h : HoldsString s a bytes)
    (use : List Byte → State) : withString s a use = .next (use bytes) := by
  rw [withString, scanString_found h]

theorem withString_stopped {s : State} {a : Word} {c : Condition} (h : ScanStops s a c) (use : List Byte → State) :
    withString s a use = .next { s with op := .faulted c } := by
  rw [withString, scanString_stopped h]
  rfl

/-- A memory that is one readable segment without a zero byte has no string. -/
theorem withString_endless {s : State} (hbytes : ∀ a, Accessible s .read a 1 ∧ s.byteAt a.toNat ≠ 0#8)
    (hsegment : ∃ g, ∀ a : Word, s.segments.lookup a.toNat = some g) (a : Word) (use : List Byte → State) :
    withString s a use = .fault .endlessString := by
  obtain ⟨g, hg⟩ := hsegment
  have hscan : s.scanString a = .endless :=
    scanFrom_endless s a (fun b => ⟨(hbytes b).1, (hg b).trans (hg a).symm, (hbytes b).2⟩) _ a
  rw [withString, hscan]

/-! ### Console and exit -/

/-- Settles O47: both cases by what the scan of the string ends in. -/
theorem printString : Obligations.PrintString := fun addr _ hnum =>
  ⟨fun _ hstring => exec_service .printString addr hnum rfl (withString_found hstring _),
    fun _ hstops => exec_service .printString addr hnum rfl (withString_stopped hstops _)⟩

/-- Settles O48: the scan is the same for both services. -/
theorem endlessString : Obligations.EndlessString := by
  rintro addr s (hnum | hnum) hbytes hsegment
  · exact exec_service .printString addr hnum rfl (withString_endless hbytes hsegment _ _)
  · exact exec_service .openFile addr hnum rfl (withString_endless hbytes hsegment _ _)

theorem hostAnswer_cons {s : State} {answer : HostAnswer} {rest : List HostAnswer}
    (h : s.hostInput = answer :: rest) : s.hostAnswer = answer := by
  rw [State.hostAnswer, h]

theorem hostAnswer_nil {s : State} (h : s.hostInput = []) : s.hostAnswer = config.host s.hostAsked s.trace := by
  rw [State.hostAnswer, h]

/-- Settles O49: each of the four services asks the host and writes what it answers. -/
theorem readNumbers : Obligations.ReadNumbers := by
  intro addr s
  refine ⟨fun _ _ => hostAnswer_cons, hostAnswer_nil, fun hnum => ?_, fun hnum => ?_⟩
  · have hexec : exec (.syscall addr) s = .next (s.asked.answer s.hostAnswer.value) := by
      rcases hnum with hnum | hnum | hnum
      · exact exec_service .readInt addr hnum rfl rfl
      · exact exec_service .readDouble addr hnum rfl rfl
      · exact exec_service .readChar addr hnum rfl rfl
    obtain ⟨t, ht, hreg, hmem, hrun, hused, htrace⟩ := exec_asked_answer hexec
    exact ⟨t, ht, hreg, hused, hmem, hrun, htrace⟩
  · obtain ⟨t, ht, hreg, hmem, hrun, hused, htrace⟩ :=
      exec_asked_answer (exec_service .readFloat addr hnum rfl rfl)
    exact ⟨t, ht, hreg, hused, hmem, hrun, htrace⟩

/-- Settles O46: each of the four services is the append of its event. -/
theorem printServices : Obligations.PrintServices := fun addr _ =>
  ⟨fun hnum => exec_service .printInt addr hnum rfl rfl, fun hnum => exec_service .printFloat addr hnum rfl rfl,
    fun hnum => exec_service .printDouble addr hnum rfl rfl, fun hnum => exec_service .printChar addr hnum rfl rfl⟩

/-- Settles O52: both services are the halt with their code. -/
theorem exitServices : Obligations.ExitServices := fun addr _ =>
  ⟨fun hnum => exec_service .exit addr hnum rfl rfl, fun hnum => exec_service .exit2 addr hnum rfl rfl⟩

/-! ### sbrk (46/R373) -/

/-- Two segments overlap when they share a byte (20/R61). -/
theorem Segment.overlaps_iff_exists (g h : Segment) : g.overlaps h = true ↔
    ∃ a, h.min ≤ a ∧ a < h.min + h.size ∧ g.min ≤ a ∧ a < g.min + g.size := by
  rw [Segment.overlaps_iff]
  refine ⟨fun hshare => ⟨max g.min h.min, by omega⟩, ?_⟩
  rintro ⟨a, hshare⟩
  omega

theorem meetsOther_eq_true_iff (g : SegmentMap) (lo n : Nat) : meetsOther g lo n = true ↔
    ∃ seg ∈ [g.text, g.data, g.ktext, g.kdata, g.stack], ∃ a,
      lo ≤ a ∧ a < lo + n ∧ seg.min ≤ a ∧ a < seg.min + seg.size := by
  simp only [meetsOther, List.any_eq_true, Segment.overlaps_iff_exists]

section Sbrk
variable {s : State}

theorem serviceSbrk_zero (h : s.readX 4#5 = 0#64) : serviceSbrk s = s.answer (BitVec.ofNat 64 s.brk) := by
  rw [serviceSbrk, State.arg_zero, if_pos h]

theorem serviceSbrk_negative (h : (s.readX 4#5).toInt < 0) : serviceSbrk s = s.answer allOnes := by
  have hne : s.readX 4#5 ≠ 0#64 := fun e => by simp [e] at h
  rw [serviceSbrk, State.arg_zero, if_neg hne, if_pos h]

/-- A growth past the start of the stack or into another segment fails. -/
theorem serviceSbrk_blocked (hne : s.readX 4#5 ≠ 0#64)
    (h : s.segments.stack.min < s.brk + (s.readX 4#5).toNat ∨
      meetsOther s.segments s.brk (s.readX 4#5).toNat = true) : serviceSbrk s = s.answer allOnes := by
  rw [serviceSbrk, State.arg_zero, if_neg hne, if_pos (c := (_ || _) = true) (by simpa using h), ite_self]

theorem serviceSbrk_grows (hpos : 0 < (s.readX 4#5).toInt) (hstack : s.brk + (s.readX 4#5).toNat ≤ s.segments.stack.min)
    (hfree : meetsOther s.segments s.brk (s.readX 4#5).toNat = false) :
    serviceSbrk s = (s.growHeap (s.brk + (s.readX 4#5).toNat)).answer (BitVec.ofNat 64 s.brk) := by
  have hne : s.readX 4#5 ≠ 0#64 := fun e => by simp [e] at hpos
  rw [serviceSbrk, State.arg_zero, if_neg hne, if_neg (by omega), if_neg]
  simpa [hfree] using hstack

/-- The heap's first address does not move, so that its size grows by what its end moves up. -/
theorem segments_growHeap (s : State) (n : Nat) : (s.growHeap (s.brk + n)).segments =
    { s.segments with heap := { s.segments.heap with size := s.segments.heap.size + n } } := by
  have hsize : s.brk + n - s.segments.heap.min = s.segments.heap.size + n := by
    unfold State.brk Segment.limit
    omega
  rw [State.growHeap_segments, hsize]

end Sbrk

/-- Settles O51: by the branches of the service; a segment is in the way where it holds one of the new bytes, and the
new bytes read 0 because they are cleared. -/
theorem sbrk : Obligations.Sbrk := by
  intro addr s hnum
  refine ⟨fun hzero => ?_, fun hfails => ?_, fun hpos hstack hfree => ?_⟩
  · exact exec_answer (exec_service_next .sbrk addr hnum rfl rfl (serviceSbrk_zero hzero))
  · have hrun : serviceSbrk s = s.answer allOnes := by
      rcases hfails with hneg | ⟨hne, hblocked⟩
      · exact serviceSbrk_negative hneg
      · exact serviceSbrk_blocked hne (hblocked.imp_right (meetsOther_eq_true_iff s.segments _ _).mpr)
    exact exec_answer (exec_service_next .sbrk addr hnum rfl rfl hrun)
  · have hother : meetsOther s.segments s.brk (s.readX 4#5).toNat = false := by
      rw [Bool.eq_false_iff, ne_eq, meetsOther_eq_true_iff]
      rintro ⟨seg, hseg, a, hlo, hhi, hin⟩
      have := hfree seg hseg a hlo hhi
      omega
    have hreg : RegistersKept s (s.growHeap (s.brk + (s.readX 4#5).toNat)) :=
      ⟨fun _ => rfl, fun _ => rfl, rfl, rfl, rfl, rfl⟩
    exact ⟨_, exec_service_next .sbrk addr hnum rfl rfl (serviceSbrk_grows hpos hstack hother), hreg.answer _,
      segments_growHeap s _, fun a hlo hhi => Memory.read_clear_inside s.mem _ _ a ⟨hlo, hhi⟩,
      fun a hout => Memory.read_clear_outside s.mem _ _ a hout, rfl, ⟨rfl, rfl, rfl⟩, ⟨rfl, rfl⟩, rfl⟩

/-! ### The registers after any service (46/R361) -/

/-- `SYSTABLE` read backwards (46/R362). -/
def serviceNumber : Service → Nat
  | .printInt => 1
  | .printFloat => 2
  | .printDouble => 3
  | .printString => 4
  | .readInt => 5
  | .readFloat => 6
  | .readDouble => 7
  | .readString => 8
  | .sbrk => 9
  | .exit => 10
  | .printChar => 11
  | .readChar => 12
  | .openFile => 13
  | .readFile => 14
  | .writeFile => 15
  | .closeFile => 16
  | .exit2 => 17

theorem toNat_of_serviceOfNumber {n : Word} {service : Service} (h : serviceOfNumber n = some service) :
    n.toNat = serviceNumber service := by
  unfold serviceOfNumber at h
  split at h <;> cases h <;> assumption

/-- The numbers of the services without a result. -/
theorem returnsNothing_of_number {service : Service} (h : serviceNumber service ≤ 4 ∨ serviceNumber service = 8 ∨
    serviceNumber service = 10 ∨ serviceNumber service = 11 ∨ 17 ≤ serviceNumber service) :
    returnsNothing service = true := by
  revert h
  cases service <;> decide

/-- Settles O57: `BadSyscall` keeps all registers, and of a service everything it can do is known. -/
theorem syscallRegisters : Obligations.SyscallRegisters := by
  intro addr s t h
  rcases syscall_cases s t h with ⟨_, rfl⟩ | ⟨service, hservice, he⟩
  · exact ⟨fun _ _ => rfl, fun _ => rfl, rfl, rfl, rfl, rfl, fun _ => rfl⟩
  · refine ⟨he.others, State.readV_congr he.v, he.hi, he.lo, he.pc, he.kernel, fun hnum => ?_⟩
    rw [toNat_of_serviceOfNumber hservice] at hnum
    exact State.readX_congr (he.result (returnsNothing_of_number hnum)) 2#5

end Sys2Proof.Machine
end

section
/-! PROOFS. The services of `syscall` that write or read a buffer or work on descriptors (46/R372, 46 section 6):
read_string, open, read, write and close. -/

namespace Sys2Proof.Machine

/-! ### Buffers written with a host's answer (46/R364) -/

/-- The host has been asked and the bytes were written at `a` and the addresses after it. -/
def State.askedWrote (s : State) (a : Word) (bytes : List Byte) : State :=
  { s.asked with mem := writeAll s.mem a bytes }

section AskedWrote
variable {s t : State} {a : Word} {bytes : List Byte}

theorem writeBuffer_asked_ok (h : BufferAccessible s .write a bytes.length) :
    s.asked.writeBuffer a bytes = .ok (s.askedWrote a bytes) :=
  writeBuffer_ok bytes s.asked a (h.congr rfl)

theorem writeBuffer_asked_error {j : Nat} {c : Condition} (hj : j < bytes.length) (h : BufferStopsAt s .write a j c) :
    s.asked.writeBuffer a bytes = .error ((s.askedWrote a (bytes.take j)).raise c) :=
  writeBuffer_error c bytes s.asked a j hj (h.congr rfl)

theorem bufferWritten_askedWrote (hwf : Memory.wf s.mem) (hlen : bytes.length ≤ 2 ^ 64) :
    BufferWritten s (s.askedWrote a bytes) a bytes where
  holds j hj := read_writeAll_inside bytes s.mem a j hwf hlen hj
  outside b hb := read_writeAll_outside bytes s.mem a b hb
  segments := rfl
  fds := rfl
  trace := rfl
  exitCode := rfl
  draws := rfl

theorem registersKept_askedWrote (s : State) (a : Word) (bytes : List Byte) : RegistersKept s (s.askedWrote a bytes) :=
  ⟨fun _ => rfl, fun _ => rfl, rfl, rfl, rfl, rfl⟩

theorem BufferWritten.raise (h : BufferWritten s t a bytes) (c : Condition) : BufferWritten s (t.raise c) a bytes :=
  ⟨h.holds, h.outside, h.segments, h.fds, h.trace, h.exitCode, h.draws⟩

theorem BufferWritten.answer (h : BufferWritten s t a bytes) (w : Word) : BufferWritten s (t.answer w) a bytes :=
  ⟨h.holds, h.outside, h.segments, h.fds, h.trace, h.exitCode, h.draws⟩

theorem RegistersKept.raise (h : RegistersKept s t) (c : Condition) : RegistersKept s (t.raise c) :=
  ⟨h.general, h.vectors, h.hi, h.lo, h.pc, h.kernel⟩

/-- An instruction whose buffer write fails a check at byte `j`: the bytes before it stay written and no result is
written. -/
theorem exec_write_stops {i : Instr} {j : Nat} {c : Condition} (hwf : Memory.wf s.mem) (hj : j < bytes.length)
    (hlen : bytes.length ≤ 2 ^ 64) (hexec : exec i s = .next ((s.askedWrote a (bytes.take j)).raise c)) :
    ∃ t, exec i s = .next t ∧ BufferWritten s t a (bytes.take j) ∧ RegistersKept s t ∧ AnswerUsed s t ∧
      t.op = .faulted c := by
  have htake : (bytes.take j).length ≤ 2 ^ 64 := by
    rw [List.length_take_of_le hj.le]
    omega
  exact ⟨_, hexec, (bufferWritten_askedWrote hwf htake).raise c, (registersKept_askedWrote s a _).raise c, ⟨rfl, rfl⟩,
    rfl⟩

end AskedWrote

/-! ### read_string (46/R372) -/

/-- An answer that fits and has no zero byte is the string as it is. -/
theorem typedString_eq {answer : HostAnswer} {n : Nat} (hlen : answer.bytes.length ≤ n - 1)
    (hzero : 0#8 ∉ answer.bytes) : typedString answer n = answer.bytes := by
  have hkept : answer.bytes.filter (· ≠ 0#8) = answer.bytes :=
    List.filter_eq_self.mpr fun b hb => decide_eq_true fun e => hzero (e ▸ hb)
  rw [typedString, hkept, List.take_of_length_le hlen]

section ReadString
variable {s : State}

theorem serviceReadString_empty (h : (s.readX 5#5).toNat = 0) : serviceReadString s = s := by
  rw [serviceReadString, State.arg_one, if_pos h]

variable (hlen : 0 < (s.readX 5#5).toNat)
include hlen

theorem serviceReadString_written (h : BufferAccessible s .write (s.readX 4#5)
      (typedString s.hostAnswer (s.readX 5#5).toNat ++ [0#8]).length) :
    serviceReadString s =
      s.askedWrote (s.readX 4#5) (typedString s.hostAnswer (s.readX 5#5).toNat ++ [0#8]) := by
  rw [serviceReadString, State.arg_one, State.arg_zero, if_neg hlen.ne', writeBuffer_asked_ok h]

theorem serviceReadString_stops {j : Nat} {c : Condition}
    (hj : j < (typedString s.hostAnswer (s.readX 5#5).toNat ++ [0#8]).length)
    (h : BufferStopsAt s .write (s.readX 4#5) j c) :
    serviceReadString s =
      (s.askedWrote (s.readX 4#5) ((typedString s.hostAnswer (s.readX 5#5).toNat ++ [0#8]).take j)).raise c := by
  rw [serviceReadString, State.arg_one, State.arg_zero, if_neg hlen.ne', writeBuffer_asked_error hj h]

end ReadString

/-- Settles O50: with a length, the string and its zero byte are one buffer write of at most that many bytes. -/
theorem readString : Obligations.ReadString := by
  intro addr s hnum hwf
  have hfit := length_typedString s.hostAnswer (s.readX 5#5).toNat
  refine ⟨fun hempty => exec_service_next .readString addr hnum rfl rfl (serviceReadString_empty hempty), hfit,
    zero_not_mem_typedString _ _, typedString_eq, fun hpos => ?_⟩
  have hbytes := List.length_append (as := typedString s.hostAnswer (s.readX 5#5).toNat) (bs := [0#8])
  rw [List.length_singleton] at hbytes
  have hspace : (typedString s.hostAnswer (s.readX 5#5).toNat ++ [0#8]).length ≤ 2 ^ 64 := by omega
  rw [← hbytes]
  refine ⟨fun hok => ?_, fun j c hj hstops => ?_⟩
  · exact ⟨_, exec_service_next .readString addr hnum rfl rfl (serviceReadString_written hpos hok),
      bufferWritten_askedWrote hwf hspace, registersKept_askedWrote s _ _, ⟨rfl, rfl⟩, rfl⟩
  · exact exec_write_stops hwf hj hspace
      (exec_service_next .readString addr hnum rfl rfl (serviceReadString_stops hpos hj hstops))

/-! ### Access modes (46/R377 to R379) -/

theorem canRead_eq_true_iff (access : FdAccess) : canRead access = true ↔ access = .readOnly ∨ access = .readWrite := by
  cases access <;> decide

theorem canRead_eq_false_iff (access : FdAccess) : canRead access = false ↔ access = .writeOnly := by
  cases access <;> decide

theorem canWrite_eq_true_iff (access : FdAccess) :
    canWrite access = true ↔ access = .writeOnly ∨ access = .readWrite := by
  cases access <;> decide

theorem canWrite_eq_false_iff (access : FdAccess) : canWrite access = false ↔ access = .readOnly := by
  cases access <;> decide

/-! ### open (46/R377) -/

/-- The access mode that bits 1:0 of the flags name. -/
theorem openAccess_eq_some {flags : Word} {access : FdAccess}
    (h : (flags.extractLsb' 0 2).toNat = 0 ∧ access = .readOnly ∨
      (flags.extractLsb' 0 2).toNat = 1 ∧ access = .writeOnly ∨
      (flags.extractLsb' 0 2).toNat = 2 ∧ access = .readWrite) : config.openAccess flags = some access := by
  change accessOfFlags flags = some access
  rcases h with ⟨hmode, rfl⟩ | ⟨hmode, rfl⟩ | ⟨hmode, rfl⟩ <;> simp only [accessOfFlags, hmode]

theorem openAccess_eq_none_iff (flags : Word) :
    config.openAccess flags = none ↔ (flags.extractLsb' 0 2).toNat = 3 := by
  change accessOfFlags flags = none ↔ _
  have hlt : (flags.extractLsb' 0 2).toNat < 4 := (flags.extractLsb' 0 2).isLt
  have hmode : (flags.extractLsb' 0 2).toNat = 0 ∨ (flags.extractLsb' 0 2).toNat = 1 ∨
      (flags.extractLsb' 0 2).toNat = 2 ∨ (flags.extractLsb' 0 2).toNat = 3 := by omega
  rcases hmode with h | h | h | h <;> simp only [accessOfFlags, h] <;> decide

/-- The create flag is bit 6. -/
theorem and_openCreate_ne_zero (flags : Word) : (flags &&& config.openCreate != 0#64) = flags.getLsbD 6 := by
  have hbit : config.openCreate = BitVec.twoPow 64 6 := rfl
  rw [hbit, BitVec.and_twoPow]
  cases flags.getLsbD 6 <;> rfl

theorem hostOpens_eq (answer : HostAnswer) (flags : Word) :
    hostOpens answer flags = (answer.ok && (answer.fileExists || flags.getLsbD 6)) := by
  rw [hostOpens, and_openCreate_ne_zero]

section Open
variable {s : State} (path : List Byte)

theorem openPath_opened {access : FdAccess} (hmode : config.openAccess (s.readX 5#5) = some access)
    (hopens : hostOpens s.hostAnswer (s.readX 5#5) = true) :
    openPath s path = openResult path (s.readX 5#5) (s.readX 6#5) (BitVec.ofNat 64 (FdTable.lowestFree s.fds))
      { s.asked with fds := FdTable.add s.fds (FdTable.lowestFree s.fds) access } := by
  rw [openPath, State.arg_one, State.arg_two, hmode]
  exact if_pos hopens

theorem openPath_invalid (hmode : config.openAccess (s.readX 5#5) = none) :
    openPath s path = openResult path (s.readX 5#5) (s.readX 6#5) allOnes s := by
  rw [openPath, State.arg_one, State.arg_two, hmode]

theorem openPath_failed {access : FdAccess} (hmode : config.openAccess (s.readX 5#5) = some access)
    (hfails : hostOpens s.hostAnswer (s.readX 5#5) = false) :
    openPath s path = openResult path (s.readX 5#5) (s.readX 6#5) allOnes s.asked := by
  rw [openPath, State.arg_one, State.arg_two, hmode]
  exact if_neg (Bool.eq_false_iff.mp hfails)

end Open

/-- Settles O53: the path is read first; then the access mode, then the host's answer decide. -/
theorem openService : Obligations.OpenService := by
  intro addr s hnum
  refine ⟨fun path hpath => ?_,
    fun c hstops => exec_service .openFile addr hnum rfl (withString_stopped hstops _)⟩
  have hexec {t : State} (ht : openPath s path = t) : exec (.syscall addr) s = .next t :=
    exec_service .openFile addr hnum rfl ((withString_found hpath _).trans (congrArg _ ht))
  refine ⟨fun access hmode hok hfile => ?_, fun hfails => ?_⟩
  · have hopens : hostOpens s.hostAnswer (s.readX 5#5) = true := by simpa [hostOpens_eq, hok] using hfile
    obtain ⟨hthree, hfree, hlowest⟩ := FdTable.lowestFree_spec s.fds
    have hadded := FdTable.find_add s.fds (FdTable.lowestFree s.fds) access hfree
    have hreg : RegistersKept s { s.asked with fds := FdTable.add s.fds (FdTable.lowestFree s.fds) access } :=
      ⟨fun _ => rfl, fun _ => rfl, rfl, rfl, rfl, rfl⟩
    exact ⟨_, FdTable.lowestFree s.fds, hexec (openPath_opened path (openAccess_eq_some hmode) hopens),
      (hreg.emit _).answer _, hthree, hfree, hlowest, (hadded _).trans (if_pos rfl),
      fun n hn => (hadded n).trans (if_neg hn), rfl, fun _ => rfl, rfl, ⟨rfl, rfl, rfl⟩, ⟨rfl, rfl⟩⟩
  · cases hmode : config.openAccess (s.readX 5#5) with
    | none =>
      have hthree := (openAccess_eq_none_iff _).mp hmode
      exact ⟨_, hexec (openPath_invalid path hmode), ((registersKept_refl s).emit _).answer _,
        ⟨fun _ => rfl, rfl, rfl⟩, ⟨rfl, rfl, rfl⟩, rfl, fun _ => ⟨rfl, rfl⟩, fun hne => absurd hthree hne⟩
    | some access =>
      have hne : ((s.readX 5#5).extractLsb' 0 2).toNat ≠ 3 := fun e => by
        rw [(openAccess_eq_none_iff _).mpr e] at hmode
        cases hmode
      have hrefused : hostOpens s.hostAnswer (s.readX 5#5) = false := by
        rw [hostOpens_eq]
        rcases hfails with hthree | hok | ⟨hexists, hcreate⟩
        · exact absurd hthree hne
        · rw [hok, Bool.false_and]
        · rw [hexists, hcreate, Bool.or_false, Bool.and_false]
      exact ⟨_, hexec (openPath_failed path hmode hrefused), ((registersKept_asked s).emit _).answer _,
        ⟨fun _ => rfl, rfl, rfl⟩, ⟨rfl, rfl, rfl⟩, rfl, fun hthree => absurd hthree hne, fun _ => ⟨rfl, rfl⟩⟩

/-! ### read (46/R378) -/

section Read
variable {s : State} {access : FdAccess}

theorem serviceRead_notReadable
    (h : ∀ access, FdTable.find s.fds (s.readX 4#5).toNat = some access → canRead access = false) :
    serviceRead s = s.answer allOnes := by
  rw [serviceRead, State.arg_zero]
  split
  · rfl
  · next access hfd => exact if_neg (Bool.eq_false_iff.mp (h access hfd))

variable (hfd : FdTable.find s.fds (s.readX 4#5).toNat = some access) (hreadable : canRead access = true)
include hfd hreadable

theorem serviceRead_hostFails (hok : s.hostAnswer.ok = false) : serviceRead s = s.asked.answer allOnes := by
  rw [serviceRead, State.arg_zero, hfd]
  exact (if_pos hreadable).trans (if_neg (Bool.eq_false_iff.mp hok))

variable (hok : s.hostAnswer.ok = true)
include hok

theorem serviceRead_written
    (h : BufferAccessible s .write (s.readX 5#5) (s.hostAnswer.bytes.take (s.readX 6#5).toNat).length) :
    serviceRead s = (s.askedWrote (s.readX 5#5) (s.hostAnswer.bytes.take (s.readX 6#5).toNat)).answer
      (BitVec.ofNat 64 (s.hostAnswer.bytes.take (s.readX 6#5).toNat).length) := by
  simp only [serviceRead, State.arg_zero, State.arg_one, State.arg_two, hfd, hreadable, hok, if_true,
    writeBuffer_asked_ok h]

theorem serviceRead_stops {j : Nat} {c : Condition}
    (hj : j < (s.hostAnswer.bytes.take (s.readX 6#5).toNat).length) (h : BufferStopsAt s .write (s.readX 5#5) j c) :
    serviceRead s =
      (s.askedWrote (s.readX 5#5) ((s.hostAnswer.bytes.take (s.readX 6#5).toNat).take j)).raise c := by
  simp only [serviceRead, State.arg_zero, State.arg_one, State.arg_two, hfd, hreadable, hok, if_true,
    writeBuffer_asked_error hj h]

end Read

/-- Settles O54: the descriptor, the host and the buffer are asked in this order. -/
theorem readFileService : Obligations.ReadFileService := by
  intro addr s hnum hwf
  have hexec {t : State} (ht : serviceRead s = t) : exec (.syscall addr) s = .next t :=
    exec_service_next .readFile addr hnum rfl rfl ht
  refine ⟨fun hnot => ?_, fun access hfd hmode => ?_⟩
  · exact exec_answer (hexec (serviceRead_notReadable fun access hfd =>
      (canRead_eq_false_iff access).mpr (hnot access hfd)))
  · have hreadable := (canRead_eq_true_iff access).mpr hmode
    have hspace : (s.hostAnswer.bytes.take (s.readX 6#5).toNat).length ≤ 2 ^ 64 :=
      (List.length_take_le _ _).trans (s.readX 6#5).isLt.le
    refine ⟨fun hok => exec_asked_answer (hexec (serviceRead_hostFails hfd hreadable hok)), fun hok =>
      ⟨fun hbuffer => ?_, fun j c hj hstops => ?_⟩⟩
    · exact ⟨_, hexec (serviceRead_written hfd hreadable hok hbuffer), (bufferWritten_askedWrote hwf hspace).answer _,
        (registersKept_askedWrote s _ _).answer _, ⟨rfl, rfl⟩, rfl⟩
    · exact exec_write_stops hwf hj hspace (hexec (serviceRead_stops hfd hreadable hok hj hstops))

/-! ### write (46/R379) -/

section Write
variable {s : State} {access : FdAccess}

theorem serviceWrite_notWritable
    (h : ∀ access, FdTable.find s.fds (s.readX 4#5).toNat = some access → canWrite access = false) :
    serviceWrite s = s.answer allOnes := by
  rw [serviceWrite, State.arg_zero]
  split
  · rfl
  · next access hfd => exact if_neg (Bool.eq_false_iff.mp (h access hfd))

variable (hfd : FdTable.find s.fds (s.readX 4#5).toNat = some access) (hwritable : canWrite access = true)
include hfd hwritable

theorem serviceWrite_stops {j : Nat} {c : Condition} (hj : j < (s.readX 6#5).toNat)
    (h : BufferStopsAt s .read (s.readX 5#5) j c) : serviceWrite s = s.raise c := by
  simp only [serviceWrite, State.arg_zero, State.arg_one, State.arg_two, hfd, hwritable, if_true,
    readBuffer_error s c _ _ j hj h]

variable (hbuffer : BufferAccessible s .read (s.readX 5#5) (s.readX 6#5).toNat)
include hbuffer

theorem serviceWrite_reserved (hlow : (s.readX 4#5).toNat < 3) : serviceWrite s =
    wroteFile s (s.readX 4#5) (bytesAt s (s.readX 5#5) (s.readX 6#5).toNat) (s.readX 6#5) := by
  simp only [serviceWrite, State.arg_zero, State.arg_one, State.arg_two, hfd, hwritable, if_true,
    readBuffer_ok s _ _ hbuffer, hlow]

theorem serviceWrite_written (hhigh : 3 ≤ (s.readX 4#5).toNat) (hok : s.hostAnswer.ok = true) : serviceWrite s =
    wroteFile s.asked (s.readX 4#5) (bytesAt s (s.readX 5#5) (s.readX 6#5).toNat) (s.readX 6#5) := by
  simp only [serviceWrite, State.arg_zero, State.arg_one, State.arg_two, hfd, hwritable, if_true,
    readBuffer_ok s _ _ hbuffer, if_neg hhigh.not_gt, hok]

theorem serviceWrite_hostFails (hhigh : 3 ≤ (s.readX 4#5).toNat) (hok : s.hostAnswer.ok = false) :
    serviceWrite s = s.asked.answer allOnes := by
  simp only [serviceWrite, State.arg_zero, State.arg_one, State.arg_two, hfd, hwritable, if_true,
    readBuffer_ok s _ _ hbuffer, if_neg hhigh.not_gt, hok, Bool.false_eq_true, if_false]

end Write

/-- Settles O55: the descriptor is asked first, then the buffer is read, then a descriptor from 3 up asks the host. -/
theorem writeFileService : Obligations.WriteFileService := by
  intro addr s hnum
  have hexec {t : State} (ht : serviceWrite s = t) : exec (.syscall addr) s = .next t :=
    exec_service_next .writeFile addr hnum rfl rfl ht
  refine ⟨fun hnot => ?_, fun access hfd hmode => ?_⟩
  · exact exec_answer (hexec (serviceWrite_notWritable fun access hfd =>
      (canWrite_eq_false_iff access).mpr (hnot access hfd)))
  have hwritable := (canWrite_eq_true_iff access).mpr hmode
  refine ⟨fun hbuffer => ⟨bytesAt s (s.readX 5#5) (s.readX 6#5).toNat, length_bytesAt s _ _, holdsBytes_bytesAt s _ _,
    fun hwrites => ?_, fun hhigh hok => ?_⟩, fun j c hj hstops => ?_⟩
  · by_cases hlow : (s.readX 4#5).toNat < 3
    · exact ⟨_, hexec (serviceWrite_reserved hfd hwritable hbuffer hlow), ((registersKept_refl s).emit _).answer _,
        ⟨fun _ => rfl, rfl, rfl⟩, ⟨rfl, rfl, rfl⟩, rfl, fun _ => ⟨rfl, rfl⟩, fun hhigh => absurd hlow hhigh.not_gt⟩
    · exact ⟨_, hexec (serviceWrite_written hfd hwritable hbuffer (Nat.le_of_not_lt hlow) (hwrites.resolve_left hlow)),
        ((registersKept_asked s).emit _).answer _, ⟨fun _ => rfl, rfl, rfl⟩, ⟨rfl, rfl, rfl⟩, rfl,
        fun h => absurd h hlow, fun _ => ⟨rfl, rfl⟩⟩
  · exact exec_asked_answer (hexec (serviceWrite_hostFails hfd hwritable hbuffer hhigh hok))
  · exact hexec (serviceWrite_stops hfd hwritable hj hstops)

/-! ### close (46/R380) -/

section Close
variable {s : State}

theorem serviceClose_closed (hhigh : 3 ≤ (s.readX 4#5).toNat)
    (hopen : FdTable.find s.fds (s.readX 4#5).toNat ≠ none) : serviceClose s =
      (({ s with fds := FdTable.drop s.fds (s.readX 4#5).toNat } : State).emit
        (.fileClose (s.readX 4#5))).answer 0#64 := by
  rw [serviceClose, State.arg_zero]
  exact if_pos (by simp [hhigh, Option.isSome_iff_ne_none.mpr hopen])

theorem serviceClose_refused
    (h : (s.readX 4#5).toNat < 3 ∨ FdTable.find s.fds (s.readX 4#5).toNat = none) :
    serviceClose s = s.answer allOnes := by
  rw [serviceClose, State.arg_zero]
  refine if_neg ?_
  rcases h with hlow | hclosed
  · simp [hlow.not_ge]
  · simp [hclosed]

end Close

/-- Settles O56: the service drops the descriptor, and its table finds the others as before. -/
theorem closeService : Obligations.CloseService := by
  intro addr s hnum
  refine ⟨fun hhigh hopen => ?_, fun hrefused => ?_⟩
  · have hreg : RegistersKept s { s with fds := FdTable.drop s.fds (s.readX 4#5).toNat } :=
      ⟨fun _ => rfl, fun _ => rfl, rfl, rfl, rfl, rfl⟩
    have hdropped := FdTable.find_drop s.fds (s.readX 4#5).toNat
    exact ⟨_, exec_service_next .closeFile addr hnum rfl rfl (serviceClose_closed hhigh hopen),
      (hreg.emit _).answer _, (hdropped _).trans (if_pos rfl), fun n hn => (hdropped n).trans (if_neg hn), rfl,
      fun _ => rfl, rfl, ⟨rfl, rfl, rfl⟩, ⟨rfl, rfl⟩⟩
  · exact exec_answer (exec_service_next .closeFile addr hnum rfl rfl (serviceClose_refused hrefused))

end Sys2Proof.Machine
end

section
/-! PROOFS. Exceptions (60_exceptions.md): a step that ends Faulted is precise, said once for every way to fault over
`step_cases`, `exec_cases` and `syscall_cases` (R411, R413); and `BadSyscall` (R417). -/

namespace Sys2Proof.Machine

/-! ### What every fault keeps (60/R411, R413) -/

/-- From `s` to `t` nothing changed that a fault keeps in every case: `pc` and memory are left out. -/
structure FaultKept (s t : State) : Prop where
  general : ∀ r, t.readX r = s.readX r
  vectors : ∀ r, t.readV r = s.readV r
  hi : t.hi = s.hi
  lo : t.lo = s.lo
  kernel : t.kernel = s.kernel
  segments : t.segments = s.segments
  fds : t.fds = s.fds
  trace : t.trace = s.trace
  exitCode : t.exitCode = s.exitCode

theorem faultKept_raise (s : State) (c : Condition) : FaultKept s (s.raise c) :=
  ⟨fun _ => rfl, fun _ => rfl, rfl, rfl, rfl, rfl, rfl, rfl, rfl⟩

/-- The advance of `pc` before the instruction runs (30/R100) does not matter to the rest. -/
theorem FaultKept.of_setPc {s t : State} {p : Word} (h : FaultKept (s.setPc p) t) : FaultKept s t :=
  ⟨h.general, h.vectors, h.hi, h.lo, h.kernel, h.segments, h.fds, h.trace, h.exitCode⟩

/-! ### The bytes of a service's buffer (46/R364) -/

/-- The byte at `a` lies in the buffer that read_string (service 8) or read (service 14) is given. -/
def InServiceBuffer (s : State) (a : Nat) : Prop :=
  (s.readX 2#5).toNat = 8 ∧ (∃ j, j < (s.readX 5#5).toNat ∧ a = (s.readX 4#5 + BitVec.ofNat 64 j).toNat) ∨
    (s.readX 2#5).toNat = 14 ∧ ∃ j, j < (s.readX 6#5).toNat ∧ a = (s.readX 5#5 + BitVec.ofNat 64 j).toNat

/-- A byte that a buffer write changes is one of the buffer's. -/
theorem exists_of_read_writeAll_ne {m : Memory} {a : Word} {bs : List Byte} {x : Nat}
    (h : (writeAll m a bs).read x ≠ m.read x) : ∃ j, j < bs.length ∧ x = (a + BitVec.ofNat 64 j).toNat := by
  by_contra hout
  push Not at hout
  exact h (read_writeAll_outside bs m a x hout)

theorem WritesBuffer.inServiceBuffer {service : Service} {s : State} {a : Word} {n j : Nat}
    (h : WritesBuffer service s a n) (hservice : serviceOfNumber (s.readX 2#5) = some service) (hj : j < n) :
    InServiceBuffer s (a + BitVec.ofNat 64 j).toNat := by
  have hnum := toNat_of_serviceOfNumber hservice
  rcases h with ⟨rfl, rfl, hn⟩ | ⟨rfl, rfl, hn⟩
  · exact .inl ⟨hnum, j, hj.trans_le hn, rfl⟩
  · exact .inr ⟨hnum, j, hj.trans_le hn, rfl⟩

/-- A service that keeps the segment table has not grown the heap: the bytes it changes are those of its buffer. -/
theorem ServiceMemory.inServiceBuffer {service : Service} {s t : State} {x : Nat} (h : ServiceMemory service s t)
    (hservice : serviceOfNumber (s.readX 2#5) = some service) (hsegments : t.segments = s.segments)
    (hx : t.byteAt x ≠ s.byteAt x) : InServiceBuffer s x := by
  unfold State.byteAt at hx
  cases h with
  | kept hm _ => rw [hm] at hx; exact absurd rfl hx
  | buffer a bs hw _ hm _ =>
    rw [hm] at hx
    obtain ⟨j, hj, rfl⟩ := exists_of_read_writeAll_ne hx
    exact hw.inServiceBuffer hservice hj
  | grown n hn _ _ _ hs =>
    have hsize : s.segments.heap.size = s.segments.heap.size + n :=
      congrArg (fun g : SegmentMap => g.heap.size) (hsegments.symm.trans hs)
    omega

/-! ### An instruction that faults -/

/-- What an instruction that ends in `t` with condition `c` has done to `s`, the state with `pc` advanced. -/
structure PreciseFault (i : Instr) (s t : State) (c : Condition) : Prop where
  kept : FaultKept s t
  pc : t.pc = s.pc
  notFetch : ∀ kind a, c ≠ .segFault kind a .fetch
  bytes : ∀ a, t.byteAt a ≠ s.byteAt a → (∃ addr, i = .syscall addr) ∧ InServiceBuffer s a

/-- A condition that is raised with nothing written. -/
theorem preciseFault_raise (i : Instr) (s : State) {c : Condition} (h : ∀ kind a, c ≠ .segFault kind a .fetch) :
    PreciseFault i s (s.raise c) c :=
  ⟨faultKept_raise s c, rfl, h, fun _ hne => absurd rfl hne⟩

section Faults
variable {s t : State} {c : Condition}

theorem Effect.preciseFault (h : Effect s t) (i : Instr) (hready : s.op = .ready) (hfault : t.op = .faulted c) :
    PreciseFault i s t c := by
  cases h with
  | registers hr => rw [hr.op, hready] at hfault; cases hfault
  | raises c' hc => cases hfault; exact preciseFault_raise i s hc
  | stores => cases hready.symm.trans hfault

theorem ServiceEffect.preciseFault {service : Service} (h : ServiceEffect service s t)
    (hservice : serviceOfNumber (s.readX 2#5) = some service) (addr : BitVec 25) (hready : s.op = .ready)
    (hfault : t.op = .faulted c) : PreciseFault (.syscall addr) s t c := by
  rcases h.faulted with hop | hop | ⟨c', hop, hfetch, hx, hsegments, hfds, htrace, hexit, _⟩
  · rw [hop, hready] at hfault; cases hfault
  · rw [hop] at hfault; cases hfault
  · cases hop.symm.trans hfault
    exact ⟨⟨State.readX_congr hx, State.readV_congr h.v, h.hi, h.lo, h.kernel, hsegments, hfds, htrace, hexit⟩, h.pc,
      hfetch, fun _ hne => ⟨⟨addr, rfl⟩, h.memory.inServiceBuffer hservice hsegments hne⟩⟩

theorem exec_preciseFault {i : Instr} (h : exec i s = .next t) (hready : s.op = .ready) (hfault : t.op = .faulted c) :
    PreciseFault i s t c := by
  rcases exec_cases i s t h with ⟨addr, rfl⟩ | he
  · rcases syscall_cases s t h with ⟨_, rfl⟩ | ⟨service, hservice, he⟩
    · cases hfault
      exact preciseFault_raise _ s (by simp)
    · exact he.preciseFault hservice addr hready hfault
  · exact he.preciseFault i hready hfault

end Faults

/-! ### A step that faults -/

/-- Where a fault with condition `c` leaves `pc`: at the word whose fetch failed, otherwise advanced (60/R413). -/
def FaultPc (s t : State) (c : Condition) : Prop :=
  (∃ kind, c = .segFault kind s.pc .fetch ∧ t.pc = s.pc) ∨
    (∀ kind a, c ≠ .segFault kind a .fetch) ∧ t.pc = s.pc + 4#64

/-- The three ways a step faults: a failed fetch and an illegal word only raise, before and after the advance of `pc`;
an instruction that faults is precise. -/
theorem step_fault {s t : State} {c : Condition} (hready : s.op = .ready) (hstep : step s = .next t)
    (hfault : t.op = .faulted c) : FaultKept s t ∧ FaultPc s t c ∧ ∀ a, t.byteAt a ≠ s.byteAt a →
      (∃ w addr, HoldsValue s s.pc.toNat 4 w ∧ decode w = .ok (.syscall addr)) ∧ InServiceBuffer s a := by
  rcases step_cases s t hstep with ⟨hstopped, _⟩ | ⟨_, c', hfetch, rfl⟩ | ⟨_, w, rfl⟩ | ⟨_, w, i, hword, hdecode, hexec⟩
  · exact absurd hready hstopped
  · obtain ⟨kind, rfl⟩ := accessFault_eq hfetch
    cases hfault
    exact ⟨faultKept_raise s _, .inl ⟨kind, rfl, rfl⟩, fun _ hne => absurd rfl hne⟩
  · cases hfault
    exact ⟨(faultKept_raise (s.setPc (s.pc + 4#64)) _).of_setPc, .inr ⟨nofun, rfl⟩, fun _ hne => absurd rfl hne⟩
  · obtain ⟨hkept, hpc, hnotFetch, hbytes⟩ := exec_preciseFault hexec hready hfault
    refine ⟨hkept.of_setPc, .inr ⟨hnotFetch, hpc⟩, fun a hne => ?_⟩
    obtain ⟨⟨addr, rfl⟩, hbuffer⟩ := hbytes a hne
    exact ⟨⟨w, addr, hword, hdecode⟩, hbuffer⟩

/-- Settles O60: by what a step that faults keeps, where it leaves `pc`, and which bytes it can have changed. -/
theorem preciseFaults : Obligations.PreciseFaults := by
  intro s t c hready hstep hfault
  obtain ⟨⟨hx, hv, hhi, hlo, hkernel, hsegments, hfds, htrace, hexit⟩, hpc, hbytes⟩ := step_fault hready hstep hfault
  refine ⟨hx, hv, hhi, hlo, hkernel, hsegments, hfds, htrace, hexit, fun kind a hc => ?_, fun hnot => ?_, hbytes⟩
  · rcases hpc with ⟨kind', hc', hkept⟩ | ⟨hnot, _⟩
    · cases hc.symm.trans hc'
      exact ⟨hkept, rfl⟩
    · exact absurd hc (hnot kind a)
  · rcases hpc with ⟨kind, hc, _⟩ | ⟨_, hadvanced⟩
    · exact absurd hc (hnot kind s.pc)
    · exact hadvanced

/-! ### BadSyscall (60/R417) -/

theorem serviceNumber_bounds (service : Service) : 1 ≤ serviceNumber service ∧ serviceNumber service ≤ 17 := by
  cases service <;> decide

/-- The numbers that name no service (46/R362). -/
theorem serviceOfNumber_eq_none {n : Word} (h : n.toNat = 0 ∨ 18 ≤ n.toNat) : serviceOfNumber n = none := by
  refine Option.eq_none_iff_forall_ne_some.mpr fun service hservice => ?_
  have hnum := toNat_of_serviceOfNumber hservice
  have hrange := serviceNumber_bounds service
  omega

theorem execSyscall_noService {s : State} (h : serviceOfNumber (s.readX 2#5) = none) :
    execSyscall s = .next (s.raise (.badSyscall (s.readX 2#5))) := by
  unfold execSyscall
  dsimp only
  rw [show config.service (s.readX config.serviceReg) = none from h]
  rfl

/-- Settles O45: no service has such a number. -/
theorem badSyscall : Obligations.BadSyscall := fun _ _ =>
  ⟨encodeJ_eq_wordJ rfl, fun hnum => execSyscall_noService (serviceOfNumber_eq_none hnum)⟩

end Sys2Proof.Machine
end

section
/-! PROOFS. Memory and segments right after a reset (70/R441): what the file images, laid down one after another in an empty
memory, leave at each address, and where the heap begins (20/R62, R63, R66, R75). -/

namespace Sys2Proof.Machine

/-! ### File images laid into memory (20/R75) -/

/-- A file image at its base covers the address. -/
def ImageCovers (b : Word × ImageSegment) (a : Nat) : Prop :=
  b.1.toNat ≤ a ∧ a < b.1.toNat + b.2.bytes.length

/-- The memory with file images laid into it, one after another. -/
def placeImages (m : Memory) (images : List (Word × ImageSegment)) : Memory :=
  images.foldl (fun m b => placeImage m b.1 b.2) m

theorem memoryAtReset_eq_placeImages (i : Executable) : memoryAtReset i = placeImages [] i.images := rfl

theorem placeImages_cons (m : Memory) (b : Word × ImageSegment) (images : List (Word × ImageSegment)) :
    placeImages m (b :: images) = placeImages (placeImage m b.1 b.2) images := rfl

theorem wf_placeImage {m : Memory} (hm : Memory.wf m) (base : Word) (i : ImageSegment) :
    Memory.wf (placeImage m base i) := Memory.wf_writeBytes _ _ _ hm

/-- An image leaves every byte it does not cover alone, also where it is cut (Log 1). -/
theorem read_placeImage_outside (m : Memory) {b : Word × ImageSegment} {a : Nat} (h : ¬ ImageCovers b a) :
    (placeImage m b.1 b.2).read a = m.read a := by
  have hlen := List.length_take_le' b.2.memSize b.2.bytes
  unfold ImageCovers at h
  exact Memory.read_writeBytes_outside _ _ _ _ (by omega)

theorem read_placeImage_inside {m : Memory} (hm : Memory.wf m) {b : Word × ImageSegment}
    (hfit : b.2.bytes.length ≤ b.2.memSize) {j : Nat} (h : j < b.2.bytes.length) :
    (placeImage m b.1 b.2).read (b.1.toNat + j) = b.2.bytes[j] := by
  unfold placeImage
  rw [List.take_of_length_le hfit]
  exact Memory.read_writeBytes_inside _ _ _ _ hm h

theorem read_placeImages_outside {images : List (Word × ImageSegment)} {a : Nat} :
    ∀ m : Memory, (∀ b ∈ images, ¬ ImageCovers b a) → (placeImages m images).read a = m.read a := by
  induction images with
  | nil => exact fun _ _ => rfl
  | cons b images ih =>
    intro m h
    obtain ⟨hb, himages⟩ := List.forall_mem_cons.mp h
    rw [placeImages_cons, ih _ himages, read_placeImage_outside m hb]

/-- Of images that share no address, each is found whole at its base: the later ones write nothing into it. -/
theorem read_placeImages_inside {images : List (Word × ImageSegment)}
    (hapart : images.Pairwise fun b c => ∀ a, ImageCovers b a → ¬ ImageCovers c a)
    (hfit : ∀ b ∈ images, b.2.bytes.length ≤ b.2.memSize) :
    ∀ m : Memory, Memory.wf m → ∀ b ∈ images, ∀ j (h : j < b.2.bytes.length),
      (placeImages m images).read (b.1.toNat + j) = b.2.bytes[j] := by
  induction images with
  | nil => exact fun _ _ _ hb => absurd hb List.not_mem_nil
  | cons c images ih =>
    intro m hm b hb j hj
    obtain ⟨hc, hrest⟩ := List.pairwise_cons.mp hapart
    obtain ⟨hfitc, hfits⟩ := List.forall_mem_cons.mp hfit
    rw [placeImages_cons]
    rcases List.mem_cons.mp hb with rfl | hb
    · have hcovers : ImageCovers b (b.1.toNat + j) := ⟨by omega, by omega⟩
      rw [read_placeImages_outside _ fun d hd => hc d hd _ hcovers]
      exact read_placeImage_inside hm hfitc hj
    · exact ih hrest hfits _ (wf_placeImage hm c.1 c.2) b hb j hj

/-! ### The images of an executable that loads -/

/-- Images that fit segments without overlap share no address (20/R61). -/
theorem not_imageCovers_of_apart {b c : Word × ImageSegment} {fb fc : SegmentFlags} {a : Nat}
    (hb : b.2.bytes.length ≤ b.2.memSize) (hc : c.2.bytes.length ≤ c.2.memSize)
    (hapart : (loadedSegment b.1 fb b.2).overlaps (loadedSegment c.1 fc c.2) = false) (h : ImageCovers b a) :
    ¬ ImageCovers c a := by
  rw [← Bool.not_eq_true, Segment.overlaps_iff_exists] at hapart
  intro h'
  obtain ⟨hblo, hbhi⟩ := h
  obtain ⟨hclo, hchi⟩ := h'
  exact hapart ⟨a, hclo, Nat.lt_of_lt_of_le hchi (Nat.add_le_add_left hc _), hblo,
    Nat.lt_of_lt_of_le hbhi (Nat.add_le_add_left hb _)⟩

theorem Executable.Loads.images_apart {i : Executable} {stackSize gap : Nat} (h : i.Loads stackSize gap) :
    i.images.Pairwise fun b c => ∀ a, ImageCovers b a → ¬ ImageCovers c a := by
  have hsegs : i.images.Pairwise fun b c =>
      (loadedSegment b.1 codeFlags b.2).overlaps (loadedSegment c.1 codeFlags c.2) = false := by
    obtain ⟨hfive, -⟩ := (SegmentMap.disjoint_iff_heap _).mp h.disjoint
    simp only [segmentsAtReset, List.pairwise_cons, List.forall_mem_cons] at hfive
    obtain ⟨⟨htd, htk, htkd, -⟩, ⟨hdk, hdkd, -⟩, ⟨hkkd, -⟩, -⟩ := hfive
    simp only [Executable.images, List.pairwise_cons, List.forall_mem_cons]
    exact ⟨⟨htd, htk, htkd, nofun⟩, ⟨hdk, hdkd, nofun⟩, ⟨hkkd, nofun⟩, nofun, .nil⟩
  exact hsegs.imp_of_mem fun hb hc hapart _ => not_imageCovers_of_apart (h.fits _ hb) (h.fits _ hc) hapart

/-- Each file image lies at its base after a reset. -/
theorem byteAt_hostReset_inside {i : Executable} {stackSize gap : Nat} (oracle : List HostAnswer) (s : State)
    (hl : i.Loads stackSize gap) {b : Word × ImageSegment} (hb : b ∈ i.images) {j : Nat} (h : j < b.2.bytes.length) :
    (hostReset i stackSize gap oracle s).byteAt (b.1.toNat + j) = b.2.bytes[j] := by
  show (memoryAtReset i).read _ = _
  rw [memoryAtReset_eq_placeImages]
  exact read_placeImages_inside hl.images_apart hl.fits [] ⟨.nil, nofun⟩ b hb j h

/-- Outside the file images no store of the run before is left (70/R441). -/
theorem byteAt_hostReset_outside (i : Executable) (stackSize gap : Nat) (oracle : List HostAnswer) (s : State) {a : Nat}
    (h : ∀ b ∈ i.images, ¬ ImageCovers b a) : (hostReset i stackSize gap oracle s).byteAt a = 0#8 := by
  show (memoryAtReset i).read _ = _
  rw [memoryAtReset_eq_placeImages, read_placeImages_outside [] h]
  rfl

/-! ### The segments -/

/-- A stack that fits below `STACK_END` has the size the loader asks for (20/R62, R65). -/
theorem stackSegment_of_le {size : Nat} (h : size ≤ config.stackEnd.toNat) :
    stackSegment size = ⟨config.stackEnd.toNat - size, size, true, true, false⟩ := by
  rw [stackSegment, Nat.min_eq_left h]
  rfl

theorem top_le_heapBase (i : Executable) (stackSize gap : Nat) : i.top ≤ heapBase i stackSize gap :=
  Nat.le_add_right _ _

/-- Settles O2: the bytes by the four images one after another, the segments as the reset makes them, the heap by the
reduction of its draw. -/
theorem resetMemory : Obligations.ResetMemory := by
  intro i stackSize gap oracle s hl
  refine ⟨fun b hb j h => byteAt_hostReset_inside oracle s hl hb h, fun a h => ?_, rfl, rfl, rfl, rfl, stackSegment_of_le,
    heapBase i stackSize gap, rfl, top_le_heapBase i stackSize gap, heapBase_lt gap hl.below⟩
  refine byteAt_hostReset_outside i stackSize gap oracle s fun b hb hcovers => ?_
  obtain ⟨hlo, hhi⟩ := hcovers
  have := h b hb
  omega

end Sys2Proof.Machine
end
